-- ==== Sys2Proof/Word.lean ====
section
/-! DEFINITION. The engine's one word: a 10-bit unsigned binary number (00_scope.md R10, R14; 10_state.md R20). -/

namespace Sys2Proof

/-- A 10-bit quantity `v[9:0]`. A cell value is a word whose value is at most 999 (R20); a port carries any word
(R225). -/
abbrev Word := BitVec 10

/-- "A cell value is an integer in 0..999" (R20). -/
abbrev Word.IsCell (v : Word) : Prop := v.toNat < 1000

end Sys2Proof
end

