-- ==== Sys2Proof/Config.lean ====
section
/-! DEFINITION. What is fixed for the machine (00_scope.md R8), its OPEN parameters, and the values the spec leaves
free. A free value has no body: nothing in Lean can evaluate it. POWER_ON_MEM, INPUT_ENV and OUTPUT_ENV are arguments
of `Machine.State.powerOn` instead. -/

namespace Sys2Proof.Config

/-- `N_CELLS` (R8): addresses 0 to 99. -/
abbrev nCells : Nat := 100

/-- `MODULUS` (R8); `CELL_MAX` is one less. -/
abbrev modulus : Nat := 1000

/-- `STEP_CYCLES - 1`, a free natural number (R8, D26). -/
opaque extraStepCycles : Nat

/-- `STEP_CYCLES` (R8, D26): an integer of at least 1. No rule depends on it (R280). -/
def stepCycles : Nat := extraStepCycles + 1

/-- FREE VALUE (log 4): what IR holds outside a step: "any value" (U13, R34). -/
opaque freeIr : Nat → Word

/-- FREE VALUE (log 5): `out_data` while `out_valid = 0` (R214, U12). -/
opaque freeOutData : Nat → Word

/-- FREE VALUE (log 3): the n-th value an unspecified input device supplies (R8 `INPUT_ENV`, U11). -/
opaque inputEnv : Nat → Word

end Sys2Proof.Config
end

