-- ==== Sys2Proof/Syntax.lean ====
section
/-! DEFINITION. The instructions: one constructor per row of the opcode map (30_encoding.md R94, R99). -/

namespace Sys2Proof

/-- One constructor per row of spec/opcode_table.json. The operand, "the trailing
two digits of an instruction", is a number (R90, R93): `x` is one the engine ignores, `a` one it uses. -/
inductive Instr where
  /-- HALT, 000..099 (R126); the operand digits are ignored (R97). -/
  | halt (x : Nat)
  /-- ADD, 100..199 (R152). -/
  | add (a : Nat)
  /-- SUB, 200..299 (R153). -/
  | sub (a : Nat)
  /-- STA, 300..399 (R172). -/
  | sta (a : Nat)
  /-- ILLEGAL, 400..499: opcode 4 (R127, R96 a). -/
  | illegalOpcode4 (x : Nat)
  /-- LDA, 500..599 (R171). -/
  | lda (a : Nat)
  /-- BRA, 600..699 (R191). -/
  | bra (a : Nat)
  /-- BRZ, 700..799 (R192). -/
  | brz (a : Nat)
  /-- BRP, 800..899 (R193). -/
  | brp (a : Nat)
  /-- ILLEGAL, 900: opcode 9 with operand 0 (R127, R96 b). -/
  | illegal900
  /-- INP, 901 (R213). -/
  | inp
  /-- OUT, 902 (R215). -/
  | out
  /-- ILLEGAL, 903..999: opcode 9 with an operand from 3 to 99 (R127, R96 b). -/
  | illegal903 (x : Nat)
deriving DecidableEq, Repr

/-- The row's mnemonic as the opcode table spells it (R94, R99). -/
def Instr.mnemonic : Instr → String
  | .halt _ => "HALT"
  | .add _ => "ADD"
  | .sub _ => "SUB"
  | .sta _ => "STA"
  | .illegalOpcode4 _ => "ILLEGAL"
  | .lda _ => "LDA"
  | .bra _ => "BRA"
  | .brz _ => "BRZ"
  | .brp _ => "BRP"
  | .illegal900 => "ILLEGAL"
  | .inp => "INP"
  | .out => "OUT"
  | .illegal903 _ => "ILLEGAL"

/-- The rows that are illegal encodings (R96). -/
def Instr.isIllegal : Instr → Bool
  | .illegalOpcode4 _ => true
  | .illegal900 => true
  | .illegal903 _ => true
  | .halt _ => false
  | .add _ => false
  | .sub _ => false
  | .sta _ => false
  | .lda _ => false
  | .bra _ => false
  | .brz _ => false
  | .brp _ => false
  | .inp => false
  | .out => false

/-- The two instructions that make a device transfer (R216). -/
def Instr.isIo : Instr → Bool
  | .inp => true
  | .out => true
  | .halt _ => false
  | .add _ => false
  | .sub _ => false
  | .sta _ => false
  | .illegalOpcode4 _ => false
  | .lda _ => false
  | .bra _ => false
  | .brz _ => false
  | .brp _ => false
  | .illegal900 => false
  | .illegal903 _ => false

end Sys2Proof
end

