-- ==== Sys2Proof/WellFormed.lean ====
section
/-! DEFINITION. Which terms of `Instr` are instructions of the engine: an operand is a value 0..99 (00_scope.md R14,
30_encoding.md R93), and the operands of the row 903..999 are 3..99 (R94). -/

namespace Sys2Proof

/-- "operand = v mod 100, a number 0..99" (R90). -/
def operandInRange (a : Nat) : Bool := a < 100

/-- Every operand in the range its row of the opcode map gives it (R94). -/
def Instr.wellFormed : Instr → Bool
  | .halt x => operandInRange x
  | .add a => operandInRange a
  | .sub a => operandInRange a
  | .sta a => operandInRange a
  | .illegalOpcode4 x => operandInRange x
  | .lda a => operandInRange a
  | .bra a => operandInRange a
  | .brz a => operandInRange a
  | .brp a => operandInRange a
  | .illegal900 => true
  | .inp => true
  | .out => true
  | .illegal903 x => 3 ≤ x && operandInRange x

end Sys2Proof
end

