-- ==== Sys2Proof/Decode.lean ====
section
/-! DEFINITION. The decoder (30_encoding.md R92 to R96), total on all 10-bit words, the encoder after it (R94, R100),
and the opcode table as the rows a decoder can be built from (R99). -/

namespace Sys2Proof

/-- The thresholds of the hardware decoder (R92). -/
def opcodeThresholds : List Nat := [100, 200, 300, 400, 500, 600, 700, 800, 900, 1000]

/-- "the number of thresholds t with v >= t, a value 0..10" (R92). -/
def opcodeOf (v : Word) : Nat := (opcodeThresholds.filter fun t => decide (t ≤ v.toNat)).length

/-- "operand = v - 100*opcode" (R92). -/
def operandOf (v : Word) : Nat := v.toNat - 100 * opcodeOf v

/-- Why the decoder has no row for a word. -/
inductive DecodeError where
  /-- The decoder's opcode 10, words 1000..1023 (R92, R96 c): no cell holds one, and executing one is the
  illegal-instruction fault. Safe: the effect is the spec's. -/
  | opcodeTen (operand : Nat)
deriving DecidableEq, Repr

/-- Opcode 9 is decoded on its operand as well: only 901 and 902 are instructions (R95). -/
def decodeOpcode9 (opd : Nat) : Instr :=
  match opd with
  | 0 => .illegal900
  | 1 => .inp
  | 2 => .out
  | x => .illegal903 x

/-- The decoder (R92, R94, R124): "Decoding has no side effect and cannot fault by itself". -/
def decode (v : Word) : Except DecodeError Instr :=
  let opd := operandOf v
  match opcodeOf v with
  | 0 => .ok (.halt opd)
  | 1 => .ok (.add opd)
  | 2 => .ok (.sub opd)
  | 3 => .ok (.sta opd)
  | 4 => .ok (.illegalOpcode4 opd)
  | 5 => .ok (.lda opd)
  | 6 => .ok (.bra opd)
  | 7 => .ok (.brz opd)
  | 8 => .ok (.brp opd)
  | 9 => .ok (decodeOpcode9 opd)
  | _ => .error (.opcodeTen opd)

/-- `100*opcode + NN` (R100). -/
def cellOf (opcode : Nat) (opd : Nat) : Word := BitVec.ofNat 10 (100 * opcode + opd)

/-- The cell value of an instruction (R94, R100); meant for well-formed instructions. -/
def encode : Instr → Word
  | .halt x => cellOf 0 x
  | .add a => cellOf 1 a
  | .sub a => cellOf 2 a
  | .sta a => cellOf 3 a
  | .illegalOpcode4 x => cellOf 4 x
  | .lda a => cellOf 5 a
  | .bra a => cellOf 6 a
  | .brz a => cellOf 7 a
  | .brp a => cellOf 8 a
  | .illegal900 => cellOf 9 0
  | .inp => cellOf 9 1
  | .out => cellOf 9 2
  | .illegal903 x => cellOf 9 x

/-- A row of the opcode table: the mnemonic and its inclusive `match` range (R99). -/
structure TableRow where
  mnemonic : String
  lo : Nat
  hi : Nat
deriving DecidableEq, Repr

/-- The opcode map's rows, in its order (R94, R99). -/
def opcodeTable : List TableRow :=
  [⟨"HALT", 0, 99⟩, ⟨"ADD", 100, 199⟩, ⟨"SUB", 200, 299⟩, ⟨"STA", 300, 399⟩, ⟨"ILLEGAL", 400, 499⟩,
   ⟨"LDA", 500, 599⟩, ⟨"BRA", 600, 699⟩, ⟨"BRZ", 700, 799⟩, ⟨"BRP", 800, 899⟩, ⟨"ILLEGAL", 900, 900⟩,
   ⟨"INP", 901, 901⟩, ⟨"OUT", 902, 902⟩, ⟨"ILLEGAL", 903, 999⟩]

/-- "the row whose `match` range contains v" (R99). -/
def TableRow.covers (r : TableRow) (v : Nat) : Bool := r.lo ≤ v && v ≤ r.hi

/-- The illegal encodings, as the three ranges of R96. -/
def isIllegalWord (v : Word) : Bool :=
  (400 ≤ v.toNat && v.toNat ≤ 499) || v.toNat == 900 || (903 ≤ v.toNat && v.toNat ≤ 999) || 1000 ≤ v.toNat

/-- The word that a table's number stands for: an instruction is one 10-bit cell (R90, R98), so a number that needs
more than 10 bits is no instruction. The number of bits a table row states plays no part (log 13). -/
def decodeTableWord (_nbits w : Nat) : Option Instr :=
  if w < 1024 then
    match decode (BitVec.ofNat 10 w) with
    | .ok i => some i
    | .error _ => none
  else none

end Sys2Proof
end

