-- ==== Sys2Proof/Machine/Device.lean ====
section
/-! DEFINITION. The devices at the two ports, as plain data: the reference environment models of 44_io.md section 3
(R218 to R224), a device that presents a given list of values, and the unspecified device. They are the environment,
not part of the block (R7, R35). A device may also be replaced from outside between two steps (R250). -/

namespace Sys2Proof.Machine

/-- What is attached to the input port. -/
inductive InputDevice where
  /-- `ConstantInput(c)` (R219). -/
  | constant (c : Word)
  /-- `ArrayInput(values, fallback)` with its cursor (R220). -/
  | chained (values : List Word) (cursor : Nat) (fallback : InputDevice)
  /-- The interactive input (R221): what its user will type, in order. -/
  | interactive (typed : List Nat)
  /-- A device that presents these values in this order and then keeps `in_valid = 0` (R224, R225). -/
  | script (pending : List Word)
  /-- The OPEN parameter `INPUT_ENV` (R8, U11): its n-th value is free (log 3). -/
  | unspecified (n : Nat)
deriving DecidableEq, Repr

/-- What the interactive device offers: the first typed value in 0..999; it "re-prompts on invalid input" (R221). -/
def firstValid : List Nat → Option Word
  | [] => none
  | v :: rest => if v ≤ 999 then some (BitVec.ofNat 10 v) else firstValid rest

/-- What is left of the typed values after that value is taken (R221). -/
def afterFirstValid : List Nat → List Nat
  | [] => []
  | v :: rest => if v ≤ 999 then rest else afterFirstValid rest

/-- `in_valid` and `in_data` together: the value the device offers now, if it offers one (R211, R219 to R224). -/
def InputDevice.offer : InputDevice → Option Word
  | .constant c => some c
  | .chained values cursor fallback =>
    match values[cursor]? with
    | some v => some v
    | none => fallback.offer
  | .interactive typed => firstValid typed
  | .script pending => pending.head?
  | .unspecified n => some (Config.inputEnv n)

/-- The device after one input transfer: "it consumes the value and advances its cursor" (R211, R220). -/
def InputDevice.consume : InputDevice → InputDevice
  | .constant c => .constant c
  | .chained values cursor fallback =>
    match values[cursor]? with
    | some _ => .chained values (cursor + 1) fallback
    | none => .chained values cursor fallback.consume
  | .interactive typed => .interactive (afterFirstValid typed)
  | .script pending => .script pending.tail
  | .unspecified n => .unspecified (n + 1)

/-- The device's `reset()` on `io_rst` (R217 to R220). The interactive, scripted and unspecified devices' reset is not
described: it leaves what they will present (log 15). -/
def InputDevice.reset : InputDevice → InputDevice
  | .constant c => .constant c
  | .chained values _ fallback => .chained values 0 fallback.reset
  | .interactive typed => .interactive typed
  | .script pending => .script pending
  | .unspecified n => .unspecified n

/-- The first `k` values a device's `read()` returns, stopping where it offers none (R218). -/
def InputDevice.reads : Nat → InputDevice → List Word
  | 0, _ => []
  | k + 1, d =>
    match d.offer with
    | some v => v :: InputDevice.reads k d.consume
    | none => []

/-- What is attached to the output port. -/
inductive OutputDevice where
  /-- `ArrayOutput` (R222): an ordered log, oldest first; it keeps `out_ready = 1`. -/
  | buffered (log : List Word)
  /-- The interactive output (R223), and any device that may delay (R214): what it has shown, and whether it accepts
  a value now. -/
  | interactive (shown : List Word) (ready : Bool)
deriving DecidableEq, Repr

/-- `out_ready` (R214, R222). -/
def OutputDevice.ready : OutputDevice → Bool
  | .buffered _ => true
  | .interactive _ ready => ready

/-- The device's `write(v)` at an output transfer (R214, R222, R223). -/
def OutputDevice.write (v : Word) : OutputDevice → OutputDevice
  | .buffered log => .buffered (log ++ [v])
  | .interactive shown ready => .interactive (shown ++ [v]) ready

/-- The device's `reset()` on `io_rst`: the buffered device "clears the log" (R222), the interactive one's "is a
no-op" (R223). -/
def OutputDevice.reset : OutputDevice → OutputDevice
  | .buffered _ => .buffered []
  | .interactive shown ready => .interactive shown ready

/-- The values the device was given, oldest first: the log's snapshot (R222). -/
def OutputDevice.snapshot : OutputDevice → List Word
  | .buffered log => log
  | .interactive shown _ => shown

end Sys2Proof.Machine
end

