-- ==== Sys2Proof/Machine/State.lean ====
section
/-! DEFINITION. The engine's state, all of it (10_state.md R20 to R35), with the attached devices and the record of
the port events; the state after power-on and after reset (70_reset_and_hazards.md R270, R273); the fault and refusal
reasons. -/

namespace Sys2Proof.Machine

/-- HALT_CAUSE, by name (R32). -/
inductive HaltCause where
  | none
  | haltInstr
  | illegal
  | fetchRange
deriving DecidableEq, Repr

/-- PHASE (R34, R134). -/
inductive Phase where
  | idle
  | fetch
  | exec
  | waitIn
  | waitOut
deriving DecidableEq, Repr

/-- What happens at the device ports: R211, R214, R217. -/
inductive PortEvent where
  /-- An input transfer of this value (R211). -/
  | input (x : Word)
  /-- An output transfer of this value (R214). -/
  | output (v : Word)
  /-- `io_rst = 1` for one cycle (R217). -/
  | ioReset
deriving DecidableEq, Repr

/-- The memory `M[0..99]` (R21) in one canonical form: pairs of an address and the value of its cell, addresses
strictly rising, no entry for a cell that holds 0 (log 1). -/
abbrev Memory := List (Nat × Word)

/-- The engine (R35), the attached devices (R218 to R223), and the model's own record and counter. -/
structure State where
  /-- `M[0..99]` (R21). -/
  mem : Memory
  /-- `ACC` (R24). -/
  acc : Word
  /-- `NEG` (R25). -/
  neg : Bool
  /-- `PC` (R28). -/
  pc : Word
  /-- `HALTED` (R31). -/
  halted : Bool
  /-- `HALT_CAUSE` (R32). -/
  haltCause : HaltCause
  /-- `RUN` (R33, R34 b). -/
  run : Bool
  /-- `PHASE` (R34 a): IDLE at every step boundary. -/
  phase : Phase
  /-- `IR` (R34 c): the latched instruction during a step, any value outside one (U13, log 4). -/
  ir : Word
  /-- The attached input device (R218, log 14). -/
  input : InputDevice
  /-- The attached output device (R222, log 14). -/
  output : OutputDevice
  /-- MODEL'S OWN: the port events so far, oldest first (R135, R216, log 14). -/
  portLog : List PortEvent
  /-- MODEL'S OWN: how many free values have been drawn (log 4). -/
  freeCount : Nat
deriving DecidableEq, Repr

/-- Power-on (R273): every register at its reset value, `io_rst` pulsed once and so the devices reset (R217), memory
holding `POWER_ON_MEM`, here the argument `powerOnMem`; `inputEnv` and `outputEnv` are the devices attached (R8).
DESIGN CHOICE (log 19): the spec does not say in which cycle that pulse falls; it lies before the first modelled cycle,
so that this state records it and no output pin shows it. -/
def State.powerOn (powerOnMem : Memory) (inputEnv : InputDevice) (outputEnv : OutputDevice) : State where
  mem := powerOnMem
  acc := 0
  neg := false
  pc := 0
  halted := false
  haltCause := .none
  run := false
  phase := .idle
  ir := 0
  input := inputEnv.reset
  output := outputEnv.reset
  portLog := [.ioReset]
  freeCount := 0

/-- The machine right after reset (R270, R273), with memory cleared (DESIGN CHOICE, log 2), the unspecified input
device and the buffered output device (DESIGN CHOICE, log 3). -/
def State.reset : State := State.powerOn [] (.unspecified 0) (.buffered [])

/-- Why a step answers no next state. The engine's own two faults are not among these: they are the halted state
(R240). -/
inductive Fault where
  /-- Raised by an operand access (`withCell`) whose address is outside 0..99, which only an ill-formed term of
  `Instr` has (R61 b, R68). Safe: the machine stops where no cell exists (log 10). -/
  | noSuchCell (address : Nat)
  /-- Raised by INP when the input device offers nothing: the step is "not enabled until the environment acts" (R281 b),
  so the machine has no next state (U8 `stuck`). It is no fault of the engine and no halted state. Safe: the step gives
  no state where the hardware gives none (log 6). -/
  | awaitsInput
  /-- Raised by OUT when the output device is not ready (R281 c), likewise. Safe (log 6). -/
  | awaitsOutput
deriving DecidableEq, Repr

/-- Why an instruction has no meaning in the model. -/
inductive Refusal where
  /-- An instruction that has no meaning yet, by its mnemonic. Raised by no arm: every instruction has its meaning.
  Safe. -/
  | notModelled (mnemonic : String)
deriving DecidableEq, Repr

end Sys2Proof.Machine
end

