-- ==== Sys2Proof/Machine/Flags.lean ====
section
/-! DEFINITION. The arithmetic: normalization, the PC increment, the ALU with its one flag, the borrow (00_scope.md
R13, 10_state.md R29, 41_alu.md R150, R151), and the ALU's bit-level realisation (R155). -/

namespace Sys2Proof.Machine

/-- `norm(v) = v mod 1000` for a 10-bit value (R13). -/
def norm (v : Word) : Word := BitVec.ofNat 10 (v.toNat % Config.modulus)

/-- `inc(p) = (p + 1) mod 1000` (R29). -/
def inc (p : Word) : Word := BitVec.ofNat 10 ((p.toNat + 1) % Config.modulus)

/-- The adder (R150): an 11-bit sum, less 1000 when it reaches 1000; no carry. -/
def add1000 (p q : Word) : Word :=
  let s := p.toNat + q.toNat
  BitVec.ofNat 10 (if s ≥ Config.modulus then s - Config.modulus else s)

/-- The subtractor (R151): the result and the borrow, from the exact difference. -/
def sub1000 (p q : Word) : Word × Bool :=
  let d : Int := (p.toNat : Int) - (q.toNat : Int)
  if d < 0 then (BitVec.ofInt 10 (d + Config.modulus), true) else (BitVec.ofInt 10 d, false)

/-- The adder's bit-level realisation (R155): the 11-bit sum `{0,p} + {0,q}`, corrected, then cut to 10 bits. -/
def add1000Bits (p q : Word) : Word :=
  let s : BitVec 11 := p.zeroExtend 11 + q.zeroExtend 11
  (if 1000#11 ≤ s then s - 1000#11 else s).extractLsb' 0 10

/-- The subtractor's bit-level realisation (R155): `t = {0,p} + {1,~q} + 1`, the borrow its bit 10. -/
def sub1000Bits (p q : Word) : Word × Bool :=
  let t : BitVec 11 := p.zeroExtend 11 + ((1#1 ++ ~~~q) : BitVec 11) + 1#11
  let borrow := t.getLsbD 10
  ((if borrow then t + 1000#11 else t).extractLsb' 0 10, borrow)

/-- `hw_data[0]`, the bit a host write of NEG takes (R42). -/
def bit0 (v : Word) : Bool := v.getLsbD 0

/-- The 2-bit code of HALT_CAUSE on `cause_o` (R32, R241). -/
def HaltCause.code : HaltCause → BitVec 2
  | .none => 0
  | .haltInstr => 1
  | .illegal => 2
  | .fetchRange => 3

end Sys2Proof.Machine
end

