-- ==== Sys2Proof/Machine/Operands.lean ====
section
/-! DEFINITION. Memory, the operand forms, and the one addressing mode (20_memory.md R60 to R68, 42_transfer.md R170,
43_branch.md R190). -/

namespace Sys2Proof.Machine

/-- What an address with no entry reads as: a cleared cell (R272). A sparse list with this default holds every
content of the 100 cells (log 1). -/
def Memory.unlisted : Word := 0

/-- `MemRead(a, 1)` (R13). -/
def Memory.read : Memory → Nat → Word
  | [], _ => Memory.unlisted
  | (b, w) :: m, a => if a = b then w else Memory.read m a

/-- Put a value in front of the entries above its address, unless it is what an unlisted address reads as. -/
def Memory.putFront (a : Nat) (v : Word) (m : Memory) : Memory := if v = Memory.unlisted then m else (a, v) :: m

/-- Store a value into the cell `a`, keeping the canonical form. -/
def Memory.set : Memory → Nat → Word → Memory
  | [], a, v => Memory.putFront a v []
  | (b, w) :: m, a, v =>
    if a < b then Memory.putFront a v ((b, w) :: m)
    else if a = b then Memory.putFront a v m
    else (b, w) :: Memory.set m a v

/-- `MemWrite(a, 1, v)`: "cell `a <- norm(v)`" (R13, R22). -/
def Memory.write (m : Memory) (a : Nat) (v : Word) : Memory := Memory.set m a (norm v)

/-- Addresses strictly rising from at least `lo`, all below 100, every entry a cell value other than the unlisted
one. -/
def Memory.wfFrom : Nat → Memory → Bool
  | _, [] => true
  | lo, (a, v) :: m =>
    decide (lo ≤ a) && decide (a < Config.nCells) && decide (v.toNat < Config.modulus) && decide (v ≠ Memory.unlisted)
      && Memory.wfFrom (a + 1) m

/-- The canonical form of memory, with R23: "every cell holds a value in 0..999". -/
def Memory.wf (m : Memory) : Bool := Memory.wfFrom 0 m

/-- Direct addressing, the only mode: `EA = operand` (R170). -/
def effectiveAddress (opd : Nat) : Nat := opd

/-- Access the cell at an operand's effective address; no cell exists outside 0..99 (R68, log 10). -/
def withCell (opd : Nat) (act : Nat → State) : Host.Outcome State Fault Refusal :=
  if effectiveAddress opd < Config.nCells then .next (act (effectiveAddress opd)) else .fault (.noSuchCell (effectiveAddress opd))

/-- A branch target: "the operand `opd`, in 0..99, used as an absolute cell address" (R190); the write of PC reduces
modulo 1000 (C10), which changes no target in 0..99. -/
def branchTarget (opd : Nat) : Word := BitVec.ofNat 10 (opd % Config.modulus)

end Sys2Proof.Machine
end

