-- ==== Sys2Proof/Machine/Ops.lean ====
section
/-! DEFINITION. The operations the meanings share: the advance, the end of a step, entering the halted state (the
engine's exception entry) and machine reset (the only way back), the fetch, and the waits for a device
(40_control_unit.md R120 to R134, 60_exceptions.md R240 to R247, 70_reset_and_hazards.md R270 to R275). -/

namespace Sys2Proof.Machine

/-- `ACC <- v` (R12, R24): NEG is not touched. -/
def writeAcc (v : Word) (s : State) : State := { s with acc := v }

/-- `NEG <- b` (R12, R25). -/
def writeNeg (b : Bool) (s : State) : State := { s with neg := b }

/-- `MemWrite(a, 1, v)` (R13, R22): the cell takes `norm(v)`. -/
def writeCell (a : Nat) (v : Word) (s : State) : State := { s with mem := Memory.write s.mem a v }

/-- The advance `PC <- inc(PC)`, before dispatch (R123). -/
def advance (s : State) : State := { s with pc := inc s.pc }

/-- `PC <- opd`, which replaces the advance (R190). -/
def jump (opd : Nat) (s : State) : State := { s with pc := branchTarget opd }

/-- The end of a step, at its commit: "At every step boundary, `PHASE` is IDLE" (R34); RUN is cleared by the step that
halts (R132); IR then holds any value (U13, log 4). Under RUN the reference sequencer begins the next step at once:
`beginNextStep`. -/
def finishStep (s : State) : State :=
  { s with
    phase := .idle
    run := s.run && !s.halted
    ir := Config.freeIr s.freeCount
    freeCount := s.freeCount + 1 }

/-- From a step boundary under RUN to the next step, in the same cycle: "NEXT means FETCH if RUN = 1 and the new HALTED
= 0. Otherwise it means IDLE" (R134, R132, log 7). -/
def beginNextStep (s : State) : State := if s.run && !s.halted then { s with phase := .fetch } else s

/-- Entering the halted state: HALTED <- 1 with its cause, at the commit (R126, R127, R129, R246). It saves nothing
and control goes nowhere; RUN is cleared (R132). -/
def takeHalt (cause : HaltCause) (s : State) : State := finishStep { s with halted := true, haltCause := cause }

/-- The illegal-instruction fault: `PC <- inc(a); raise Fault(ILLEGAL)` (R127, R128). -/
def takeIllegal (s : State) : State := takeHalt .illegal (advance s)

/-- The fetch-range fault: nothing but HALTED and HALT_CAUSE is written, PC keeps its value (R129). -/
def takeFetchRange (s : State) : State := takeHalt .fetchRange s

/-- Machine reset, the return from the halted state and the end of any step in progress (R247, R270, R271, R275): the
registers, not memory; `io_rst` pulses and the devices reset (R217). IR is then unspecified (R34, log 4). -/
def machineReset (s : State) : State :=
  { s with
    acc := 0
    neg := false
    pc := 0
    halted := false
    haltCause := .none
    run := false
    phase := .idle
    ir := Config.freeIr s.freeCount
    freeCount := s.freeCount + 1
    input := s.input.reset
    output := s.output.reset
    portLog := s.portLog ++ [.ioReset] }

/-- PC is a fetchable address (R129, R30). -/
def fetchable (s : State) : Bool := s.pc.toNat < Config.nCells

/-- The cell the fetch reads, `M[PC]` (R122). -/
def fetchedWord (s : State) : Word := Memory.read s.mem s.pc.toNat

/-- The fetch latches `M[PC]` in IR and the sequencer goes to EXEC (R122, R134). -/
def latch (s : State) : State := { s with ir := fetchedWord s, phase := .exec }

/-- An input transfer of `x` (R211, R213): the device advances once, and the event is recorded. -/
def transferIn (x : Word) (s : State) : State :=
  { s with input := s.input.consume, portLog := s.portLog ++ [.input x] }

/-- An output transfer of `v` (R214, R215). -/
def transferOut (v : Word) (s : State) : State :=
  { s with output := s.output.write v, portLog := s.portLog ++ [.output v] }

/-- The sequencer goes to a wait phase, at a clock edge: nothing has committed (R134). -/
def waitAt (p : Phase) (s : State) : State := { s with phase := p }

end Sys2Proof.Machine
end

