-- ==== Sys2Proof/Machine/Alu.lean ====
section
/-! DEFINITION. ADD and SUB (41_alu.md R152, R153). -/

namespace Sys2Proof.Machine

/-- ADD (R152): `ACC <- add1000(ACC, M[opd])`; NEG is unchanged. -/
def execAdd (a : Nat) (s : State) : Host.Outcome State Fault Refusal :=
  withCell a fun ea => finishStep (advance (writeAcc (add1000 s.acc (Memory.read s.mem ea)) s))

/-- SUB (R153): `(ACC, NEG) <- sub1000(ACC, M[opd])`. -/
def execSub (a : Nat) (s : State) : Host.Outcome State Fault Refusal :=
  withCell a fun ea =>
    let result := sub1000 s.acc (Memory.read s.mem ea)
    finishStep (advance (writeNeg result.2 (writeAcc result.1 s)))

end Sys2Proof.Machine
end

