-- ==== Sys2Proof/Machine/Branch.lean ====
section
/-! DEFINITION. BRA, BRZ and BRP (43_branch.md R190 to R193). -/

namespace Sys2Proof.Machine

/-- BRA (R191): `PC <- opd`. -/
def execBra (a : Nat) (s : State) : Host.Outcome State Fault Refusal := .next (finishStep (jump a s))

/-- BRZ (R192): taken when ACC is 0; NEG is not read. -/
def execBrz (a : Nat) (s : State) : Host.Outcome State Fault Refusal :=
  .next (finishStep (if s.acc = 0 then jump a s else advance s))

/-- BRP (R193): taken when NEG is 0; ACC is not read. -/
def execBrp (a : Nat) (s : State) : Host.Outcome State Fault Refusal :=
  .next (finishStep (if s.neg then advance s else jump a s))

end Sys2Proof.Machine
end

