-- ==== Sys2Proof/Machine/Control.lean ====
section
/-! DEFINITION. HALT and the three illegal rows of the opcode map (40_control_unit.md R126, R127). -/

namespace Sys2Proof.Machine

/-- HALT (R126): "PC <- inc(a); HALTED <- 1; HALT_CAUSE <- HALT_INSTR"; the operand digits are ignored. -/
def execHalt (_x : Nat) (s : State) : Host.Outcome State Fault Refusal :=
  .next (takeHalt .haltInstr (advance s))

/-- Opcode 4 (R127, R96 a). -/
def execIllegalOpcode4 (_x : Nat) (s : State) : Host.Outcome State Fault Refusal := .next (takeIllegal s)

/-- 900: opcode 9 with operand 0 (R127, R96 b). -/
def execIllegal900 (s : State) : Host.Outcome State Fault Refusal := .next (takeIllegal s)

/-- 903..999: opcode 9 with another operand than 1 and 2 (R127, R96 b). -/
def execIllegal903 (_x : Nat) (s : State) : Host.Outcome State Fault Refusal := .next (takeIllegal s)

end Sys2Proof.Machine
end

