-- ==== Sys2Proof/Machine/Io.lean ====
section
/-! DEFINITION. INP and OUT (44_io.md R213, R215) with their handshakes (R211, R214). Where the device does not act,
the step is not enabled and answers no next state (R281, log 6); the clock edges of Sequencer.lean wait in WAIT_IN or
WAIT_OUT meanwhile (R134). -/

namespace Sys2Proof.Machine

/-- INP (R213): `x := InRead(); ACC <- norm(x); PC <- pc1`; NEG is unchanged. -/
def execInp (s : State) : Host.Outcome State Fault Refusal :=
  match s.input.offer with
  | some x => .next (finishStep (advance (writeAcc (norm x) (transferIn x s))))
  | none => .fault .awaitsInput

/-- OUT (R215): `OutWrite(ACC); PC <- pc1`. -/
def execOut (s : State) : Host.Outcome State Fault Refusal :=
  if s.output.ready then .next (finishStep (advance (transferOut s.acc s))) else .fault .awaitsOutput

end Sys2Proof.Machine
end

