-- ==== Sys2Proof/Machine/Transfer.lean ====
section
/-! DEFINITION. LDA and STA (42_transfer.md R171, R172). -/

namespace Sys2Proof.Machine

/-- LDA (R171): `ACC <- norm(M[opd])`; NEG is unchanged. -/
def execLda (a : Nat) (s : State) : Host.Outcome State Fault Refusal :=
  withCell a fun ea => finishStep (advance (writeAcc (norm (Memory.read s.mem ea)) s))

/-- STA (R172): `M[opd] <- norm(ACC)`. -/
def execSta (a : Nat) (s : State) : Host.Outcome State Fault Refusal :=
  withCell a fun ea => finishStep (advance (writeCell ea s.acc s))

end Sys2Proof.Machine
end

