-- ==== Sys2Proof/Machine/Dispatch.lean ====
section
/-! DEFINITION. The dispatch (40_control_unit.md R125): one arm per row of the opcode map. -/

namespace Sys2Proof.Machine

def exec (i : Instr) (s : State) : Host.Outcome State Fault Refusal :=
  match i with
  | .halt x => Sys2Proof.Machine.execHalt x s
  | .add a => Sys2Proof.Machine.execAdd a s
  | .sub a => Sys2Proof.Machine.execSub a s
  | .sta a => Sys2Proof.Machine.execSta a s
  | .illegalOpcode4 x => Sys2Proof.Machine.execIllegalOpcode4 x s
  | .lda a => Sys2Proof.Machine.execLda a s
  | .bra a => Sys2Proof.Machine.execBra a s
  | .brz a => Sys2Proof.Machine.execBrz a s
  | .brp a => Sys2Proof.Machine.execBrp a s
  | .illegal900 => Sys2Proof.Machine.execIllegal900 s
  | .inp => Sys2Proof.Machine.execInp s
  | .out => Sys2Proof.Machine.execOut s
  | .illegal903 x => Sys2Proof.Machine.execIllegal903 x s

end Sys2Proof.Machine
end

