-- ==== Sys2Proof/Machine/Execute.lean ====
section
/-! DEFINITION. A step by its parts (40_control_unit.md R120): the latched instruction decoded and executed, and the
fetch with its range check. `Machine.step` (Step.lean) and the clock edge (Sequencer.lean) call them. -/

namespace Sys2Proof.Machine

/-- Decode IR and dispatch (R124, R125); "An encoding with no instruction reaches the illegal-instruction arm of the
dispatch" (R124, R96 c, log 11). -/
def executeLatched (s : State) : Host.Outcome State Fault Refusal :=
  match decode s.ir with
  | .ok i => exec i s
  | .error _ => .next (takeIllegal s)

/-- A whole step from its beginning (R120): the range check, the fetch, then the latched instruction. -/
def fetchAndExecute (s : State) : Host.Outcome State Fault Refusal :=
  if fetchable s then executeLatched (latch s) else .next (takeFetchRange s)

/-- One step of the engine, `executeOne()` (R120): a no-op while halted (R130); a step already in progress is taken up
in the phase it is in (R134, log 12). -/
def executeOne (s : State) : Host.Outcome State Fault Refusal :=
  if s.halted then .next s
  else
    match s.phase with
    | .idle => fetchAndExecute s
    | .fetch => fetchAndExecute s
    | .exec => executeLatched s
    | .waitIn => exec .inp s
    | .waitOut => exec .out s

end Sys2Proof.Machine
end

