-- ==== Sys2Proof/Machine/Step.lean ====
section
/-! DEFINITION. The machine's step, one instruction (00_scope.md R16, 40_control_unit.md R120), and the placing of one
instruction where the next step fetches it. -/

namespace Sys2Proof.Machine

/-- One step: the source's `executeOne()` (R16, R120). -/
def step (s : State) : Host.Outcome State Fault Refusal := executeOne s

/-- `s` with the word `w` in the cell the next step fetches, and the engine ready to fetch it: not halted, PC in
0..99, at the beginning of a step. It stands for the host's load (R277) of one cell (log 13). -/
def State.withFetchWord (s : State) (_nbits w : Nat) : State :=
  { s with
    mem := Memory.set s.mem (if fetchable s then s.pc.toNat else 0) (BitVec.ofNat 10 w)
    pc := if fetchable s then s.pc else 0
    halted := false
    haltCause := .none
    phase := .idle }

end Sys2Proof.Machine
end

