-- ==== Sys2Proof/Machine/HostPort.lean ====
section
/-! DEFINITION. The host command and access interface (10_state.md R40 to R46): the pins, the commands with their
acceptance and priority, host writes, memory clear, `run` and `step`, and program load (70_reset_and_hazards.md R277). -/

namespace Sys2Proof.Machine

/-- `hw_sel` (R40): what a host write writes. -/
inductive HostSelect where
  | mem
  | pc
  | acc
  | neg
deriving DecidableEq, Repr

/-- "0 = MEM, 1 = PC, 2 = ACC, 3 = NEG" (R40). -/
def HostSelect.ofBits (b : BitVec 2) : HostSelect :=
  if b = 0 then .mem else if b = 1 then .pc else if b = 2 then .acc else .neg

/-- The host's input pins, with the widths of R40. -/
structure HostPins where
  rst : Bool
  memClr : Bool
  step : Bool
  run : Bool
  hwEn : Bool
  hwSel : BitVec 2
  hwAddr : BitVec 7
  hwData : Word
  hrAddr : BitVec 7
deriving DecidableEq, Repr

/-- No command asserted. -/
def HostPins.quiet : HostPins where
  rst := false
  memClr := false
  step := false
  run := false
  hwEn := false
  hwSel := 0
  hwAddr := 0
  hwData := 0
  hrAddr := 0

/-- The host commands other than `rst` (R41). -/
inductive HostCommand where
  | memClear
  | write (sel : HostSelect) (addr : BitVec 7) (data : Word)
  | run
  | step
deriving DecidableEq, Repr

/-- Which command takes effect when several are asserted, `rst` apart: "`mem_clr`, host write, `run`, `step`" (R41,
R245). -/
def HostPins.command (p : HostPins) : Option HostCommand :=
  if p.memClr then some .memClear
  else if p.hwEn then some (.write (HostSelect.ofBits p.hwSel) p.hwAddr p.hwData)
  else if p.run then some .run
  else if p.step then some .step
  else none

/-- "Each is accepted only when the sequencer is idle: PHASE = IDLE and RUN = 0" (R41). -/
def acceptsCommand (s : State) : Bool := decide (s.phase = .idle) && !s.run

/-- A host write of memory: ignored at 100..127 (R42, R43, log 9). -/
def hostWriteMem (addr : BitVec 7) (data : Word) (s : State) : State :=
  if addr.toNat < Config.nCells then writeCell addr.toNat data s else s

/-- An accepted host write (R42): it "does exactly one of these". -/
def hostWrite (sel : HostSelect) (addr : BitVec 7) (data : Word) (s : State) : State :=
  match sel with
  | .mem => hostWriteMem addr data s
  | .pc => { s with pc := norm data }
  | .acc => writeAcc (norm data) s
  | .neg => writeNeg (bit0 data) s

/-- `mem_clr` (R272): every cell 0, nothing else. -/
def memClear (s : State) : State := { s with mem := [] }

/-- An accepted `run` (R132): nothing when halted, else RUN <- 1 and the first step begins (R134). -/
def beginRun (s : State) : State := if s.halted then s else { s with run := true, phase := .fetch }

/-- An accepted `step` (R131): nothing when halted (R130), else one step begins (R134). -/
def beginStep (s : State) : State := if s.halted then s else { s with phase := .fetch }

/-- An accepted command takes effect. -/
def applyCommand (c : HostCommand) (s : State) : State :=
  match c with
  | .memClear => memClear s
  | .write sel addr data => hostWrite sel addr data s
  | .run => beginRun s
  | .step => beginStep s

/-- A host command between steps: "A command not accepted is ignored and has no effect" (R41). -/
def hostCommand (c : HostCommand) (s : State) : State := if acceptsCommand s then applyCommand c s else s

/-- Program load from cell `i` on: one host write per value, in order (R277). -/
def loadProgramFrom : Nat → List Word → State → State
  | _, [], s => s
  | i, v :: rest, s => loadProgramFrom (i + 1) rest (hostCommand (.write .mem (BitVec.ofNat 7 i) v) s)

/-- Program load, "0-indexed" (R67, R277); meant for at most 100 values. -/
def loadProgram (p : List Word) (s : State) : State := loadProgramFrom 0 p s

/-- The devices attached are "substitutable by the caller" (R250): between two steps the environment may attach or
feed any device. -/
def attachDevices (i : InputDevice) (o : OutputDevice) (s : State) : State := { s with input := i, output := o }

end Sys2Proof.Machine
end

