-- ==== Sys2Proof/Machine/Sequencer.lean ====
section
/-! DEFINITION. The reference sequencer, edge by edge (40_control_unit.md R134), with the host commands (10_state.md
R41) and reset (70_reset_and_hazards.md R275), and the engine's output pins (R40, R44, 44_io.md R211, R214, R217). -/

namespace Sys2Proof.Machine

/-- IDLE: "accept a host command" (R134, R41). -/
def idleEdge (p : HostPins) (s : State) : Host.Outcome State Fault Refusal :=
  match p.command with
  | some c => .next (hostCommand c s)
  | none => .next s

/-- FETCH: commit the fetch-range fault, or latch IR (R134). -/
def fetchEdge (s : State) : Host.Outcome State Fault Refusal :=
  .next (if fetchable s then latch s else takeFetchRange s)

/-- A commit at a clock edge: the step's result, and under RUN the next step begun with it (R134). -/
def commitEdge (o : Host.Outcome State Fault Refusal) : Host.Outcome State Fault Refusal :=
  match o with
  | .next t => .next (beginNextStep t)
  | .fault f => .fault f
  | .refused r => .refused r

/-- EXEC: "INP and OUT go to their wait phase. Every other instruction computes its result and commits" (R134). -/
def execEdge (s : State) : Host.Outcome State Fault Refusal :=
  match decode s.ir with
  | .ok .inp => .next (waitAt .waitIn s)
  | .ok .out => .next (waitAt .waitOut s)
  | _ => commitEdge (executeLatched s)

/-- WAIT_IN: "In a cycle with `in_valid = 1`, commit INP"; otherwise the phase is kept (R134). -/
def waitInEdge (s : State) : Host.Outcome State Fault Refusal :=
  if s.input.offer.isSome then commitEdge (exec .inp s) else .next s

/-- WAIT_OUT: "In a cycle with `out_ready = 1`, commit OUT"; otherwise the phase is kept (R134). -/
def waitOutEdge (s : State) : Host.Outcome State Fault Refusal :=
  if s.output.ready then commitEdge (exec .out s) else .next s

/-- One rising edge of `clk` (R134): `rst` first, in every phase (R41, R275). At a step boundary under RUN, which `step`
leaves and no edge does, the next step is begun with "no idle phase between" (R132, log 7). -/
def clockEdge (p : HostPins) (s : State) : Host.Outcome State Fault Refusal :=
  if p.rst then .next (machineReset s)
  else
    match s.phase with
    | .idle => if s.run && !s.halted then fetchEdge s else idleEdge p s
    | .fetch => fetchEdge s
    | .exec => execEdge s
    | .waitIn => waitInEdge s
    | .waitOut => waitOutEdge s

/-- Edges one after another, one for each row of pins. -/
def clockEdges : List HostPins → State → Host.Outcome State Fault Refusal
  | [], s => .next s
  | p :: rest, s =>
    match clockEdge p s with
    | .next t => clockEdges rest t
    | .fault f => .fault f
    | .refused r => .refused r

/-- The engine's output pins (R40). -/
structure EngineOutputs where
  hrData : Word
  pcO : Word
  accO : Word
  negO : Bool
  haltedO : Bool
  causeO : BitVec 2
  busyO : Bool
  runO : Bool
  inReq : Bool
  outValid : Bool
  outData : Word
  ioRst : Bool
deriving DecidableEq, Repr

/-- `hr_data`: the cell, and 0 at 100..127 (R44, log 9). -/
def hostRead (addr : BitVec 7) (s : State) : Word :=
  if addr.toNat < Config.nCells then Memory.read s.mem addr.toNat else 0

/-- The outputs (R44, R211, R214, R217); `out_data` is any value while `out_valid = 0` (U12, log 5).
`io_rst` follows `rst` (log 18); the pulse of power-on lies before the first modelled cycle (DESIGN CHOICE, log 19). -/
def engineOutputs (p : HostPins) (s : State) : EngineOutputs where
  hrData := hostRead p.hrAddr s
  pcO := s.pc
  accO := s.acc
  negO := s.neg
  haltedO := s.halted
  causeO := s.haltCause.code
  busyO := decide (s.phase ≠ .idle)
  runO := s.run
  inReq := decide (s.phase = .waitIn)
  outValid := decide (s.phase = .waitOut)
  outData := if s.phase = .waitOut then s.acc else Config.freeOutData s.freeCount
  ioRst := p.rst

end Sys2Proof.Machine
end

