-- ==== Sys2Proof/Safety.lean ====
section
/-! DEFINITION. What the statements speak of: the two ways a run ends, the state's invariant, and what an instruction
leaves unchanged. -/

namespace Sys2Proof.Machine

/-- A run that ended with HALT (R135, U16). -/
abbrev State.EndedByHalt (s : State) : Prop := s.halted = true ∧ s.haltCause = .haltInstr

/-- A run that ended in a fault: "A model must treat the ILLEGAL and FETCH_RANGE causes as `fault`" (U16, R135). -/
abbrev State.EndedInFault (s : State) : Prop :=
  s.halted = true ∧ (s.haltCause = .illegal ∨ s.haltCause = .fetchRange)

/-- Every stored value is a cell value (R20, R23): memory in canonical form with cell values, ACC and PC in 0..999. -/
abbrev State.InRange (s : State) : Prop :=
  Memory.wf s.mem = true ∧ s.acc.IsCell ∧ s.pc.IsCell

/-- HALTED and HALT_CAUSE go together (R32), and a halted engine is idle with RUN = 0 (R132, R134). -/
abbrev State.HaltConsistent (s : State) : Prop :=
  (s.halted = true ↔ s.haltCause ≠ .none) ∧ (s.halted = true → s.phase = .idle ∧ s.run = false)

/-- Within a step: IR holds `M[PC]`, latched at the fetch from an address in 0..99 (R122, R134). -/
abbrev State.Latched (s : State) : Prop := fetchable s = true ∧ s.ir = fetchedWord s

/-- What PHASE says of the step in progress (R34, R134). -/
abbrev State.PhaseConsistent (s : State) : Prop :=
  match s.phase with
  | .idle => True
  | .fetch => True
  | .exec => s.Latched
  | .waitIn => s.Latched ∧ decode s.ir = .ok .inp
  | .waitOut => s.Latched ∧ decode s.ir = .ok .out

/-- The engine's invariant, kept by every step, every clock edge and every host command. -/
structure State.Inv (s : State) : Prop where
  inRange : s.InRange
  haltConsistent : s.HaltConsistent
  phaseConsistent : s.PhaseConsistent

/-- At the beginning of a step: not halted, at a step boundary (IDLE, R34) or in FETCH (R120, R134). -/
abbrev State.AtStepStart (s : State) : Prop := s.halted = false ∧ (s.phase = .idle ∨ s.phase = .fetch)

/-- The instruction the next step executes, or the one a step in progress is executing, is `i` (R120, R134). -/
abbrev State.Executes (s : State) (i : Instr) : Prop :=
  s.halted = false ∧
  match s.phase with
  | .idle => fetchable s = true ∧ decode (fetchedWord s) = .ok i
  | .fetch => fetchable s = true ∧ decode (fetchedWord s) = .ok i
  | .exec => decode s.ir = .ok i
  | .waitIn => i = .inp
  | .waitOut => i = .out

/-- The step is not enabled: an INP whose device offers nothing (R281 b). -/
abbrev State.AwaitsInput (s : State) : Prop := s.Executes .inp ∧ s.input.offer = none

/-- The step is not enabled: an OUT whose device is not ready (R281 c). -/
abbrev State.AwaitsOutput (s : State) : Prop := s.Executes .out ∧ s.output.ready = false

/-- Every cell reads as before. -/
abbrev State.MemoryKept (s t : State) : Prop := ∀ a, Memory.read t.mem a = Memory.read s.mem a

/-- No device transfer and no device reset (R216). -/
abbrev State.PortsKept (s t : State) : Prop := t.input = s.input ∧ t.output = s.output ∧ t.portLog = s.portLog

/-- The step ends and the engine goes on: HALTED, HALT_CAUSE and RUN as before, PHASE at IDLE as at every step boundary
(R34). -/
abbrev State.GoesOn (s t : State) : Prop :=
  t.halted = s.halted ∧ t.haltCause = s.haltCause ∧ t.run = s.run ∧ t.phase = .idle

/-- The step ends in the halted state with this cause (R126, R127, R129, R132). -/
abbrev State.Halts (cause : HaltCause) (t : State) : Prop :=
  t.halted = true ∧ t.haltCause = cause ∧ t.run = false ∧ t.phase = .idle

/-- The cell an instruction that commits in this state stores to (R172): STA's effective address, and no other
instruction's. -/
def storedCell : Instr → Option Nat
  | .sta a => some (effectiveAddress a)
  | .halt _ => none
  | .add _ => none
  | .sub _ => none
  | .illegalOpcode4 _ => none
  | .lda _ => none
  | .bra _ => none
  | .brz _ => none
  | .brp _ => none
  | .illegal900 => none
  | .inp => none
  | .out => none
  | .illegal903 _ => none

/-- `k` steps of the machine (R135). A step that waits for its device is none (R281): there the run has no next state, so
every step counted is one that committed or a no-op of a halted engine (R130). -/
def State.runFor (k : Nat) (s : State) : Host.Outcome State Fault Refusal :=
  match k with
  | 0 => .next s
  | k + 1 =>
    match step s with
    | .next t => State.runFor k t
    | .fault f => .fault f
    | .refused r => .refused r

/-- The run's end (R135): after some number of steps, a state with HALTED = 1. -/
def State.EndsIn (s t : State) : Prop := ∃ k, s.runFor k = .next t ∧ t.halted = true

/-- A run that has come to a step that waits for its device (R281 b, c). It goes no further as a run (the model's choice:
logs 6 and 14); once the environment acts, the step is enabled and a run goes on from the state so changed. -/
def State.ComesToWait (s : State) : Prop := ∃ k t, s.runFor k = .next t ∧ (t.AwaitsInput ∨ t.AwaitsOutput)

/-- An infinite execution (R281 a). -/
def State.RunsForever (s : State) : Prop := ∀ k, ∃ t, s.runFor k = .next t ∧ t.halted = false ∧ ¬ t.AwaitsInput ∧ ¬ t.AwaitsOutput

/-- A safe run of `k` steps: no wait and no other stop within them, and no fault of the program (U16). -/
def State.SafeFor (k : Nat) (s : State) : Prop := ∃ t, s.runFor k = .next t ∧ ¬ t.EndedInFault

end Sys2Proof.Machine
end

