-- ==== Sys2Proof/Certificates/Slice0/Obligations.lean ====
section
/-! DEFINITION. The statements for the provers, one `def Obligations.<Name> : Prop` each, from the numbered rules of
spec/. A free value (IR outside a step, `out_data` outside a transfer, the unspecified device's values) is constrained
by none of them. -/

open Sys2Proof Sys2Proof.Machine

/-! ### Decoder and encoder -/

/-- Words written out from the opcode map (R94) and the vectors E1 to E11 decode to what they stand for. -/
def Obligations.SampleWordsDecode : Prop :=
  decode 0b1000001000#10 = .ok (.lda 20) ∧ decode 0b1011000101#10 = .ok (.brz 9) ∧
  decode 0b1110000101#10 = .ok .inp ∧ decode 0b1110000110#10 = .ok .out ∧
  decode 0b1110000100#10 = .ok .illegal900 ∧ decode 0b1111100111#10 = .ok (.illegal903 99) ∧
  decode 0b0001100011#10 = .ok (.halt 99) ∧ decode 0b0001100100#10 = .ok (.add 0) ∧
  decode 0b0111110011#10 = .ok (.illegalOpcode4 99) ∧ decode 0b1111101000#10 = .error (.opcodeTen 0)

/-- Decode of encode is the instruction, for every well-formed instruction (R90, R94, R100). -/
def Obligations.DecodeInvertsEncode : Prop :=
  ∀ i : Instr, i.wellFormed = true → decode (encode i) = .ok i

/-- The other direction (R90, R94): what decodes is a well-formed instruction whose encoding is that word, and only
the words 1000..1023 decode to none (R96 c, R99). -/
def Obligations.EncodeInvertsDecode : Prop :=
  (∀ (v : Word) (i : Instr), decode v = .ok i → i.wellFormed = true ∧ encode i = v) ∧
  (∀ v : Word, (∃ i, decode v = .ok i) ↔ v.toNat ≤ 999) ∧
  (∀ v : Word, 1000 ≤ v.toNat → decode v = .error (.opcodeTen (v.toNat - 1000)))

/-- R92: the threshold decoder is `div 100` and `mod 100` on cell values; opcode 10 is exactly 1000..1023, with an
operand of at most 23; the operand is always 0..99. -/
def Obligations.ThresholdDecoderIsDivMod : Prop :=
  ∀ v : Word,
    (v.toNat ≤ 999 → opcodeOf v = v.toNat / 100 ∧ operandOf v = v.toNat % 100) ∧
    opcodeOf v ≤ 10 ∧ operandOf v ≤ 99 ∧
    (opcodeOf v = 10 ↔ 1000 ≤ v.toNat) ∧ (opcodeOf v = 10 → operandOf v ≤ 23)

/-- R94, R99: every value 0..999 falls in exactly one row of the table, and the decoder gives that row's
instruction. -/
def Obligations.TableRowsPartitionCellValues : Prop :=
  ∀ v : Word, v.toNat ≤ 999 →
    ∃ r ∈ opcodeTable, r.covers v.toNat = true ∧ (∀ r' ∈ opcodeTable, r'.covers v.toNat = true → r' = r) ∧
      ∃ i, decode v = .ok i ∧ i.mnemonic = r.mnemonic

/-- R95: of the words with opcode 9 exactly 901 and 902 are instructions; 911 and 921 are no aliases of 901. -/
def Obligations.Opcode9ComparesWholeOperand : Prop :=
  (∀ v : Word, decode v = .ok .inp ↔ v.toNat = 901) ∧
  (∀ v : Word, decode v = .ok .out ↔ v.toNat = 902) ∧
  (∀ v : Word, opcodeOf v = 9 → v.toNat ≠ 901 → v.toNat ≠ 902 → isIllegalWord v = true) ∧
  isIllegalWord 911#10 = true ∧ isIllegalWord 921#10 = true

/-! ### Arithmetic -/

/-- R150: the adder equals `(p + q) mod 1000`, by one conditional subtraction. -/
def Obligations.AdderIsSumModulo1000 : Prop :=
  ∀ p q : Word, p.IsCell → q.IsCell →
    (add1000 p q).toNat = (p.toNat + q.toNat) % 1000 ∧
    (add1000 p q).toNat = (if p.toNat + q.toNat ≥ 1000 then p.toNat + q.toNat - 1000 else p.toNat + q.toNat)

/-- R151: "The borrow is `1` exactly when `p < q`. The result always equals `(p + 1000 - q) mod 1000`", 1..999 with a
borrow and the plain difference without. -/
def Obligations.SubtractorGivesDifferenceAndBorrow : Prop :=
  ∀ p q : Word, p.IsCell → q.IsCell →
    ((sub1000 p q).2 = true ↔ p.toNat < q.toNat) ∧
    (sub1000 p q).1.toNat = (p.toNat + 1000 - q.toNat) % 1000 ∧
    (p.toNat < q.toNat → (sub1000 p q).1.toNat = p.toNat + 1000 - q.toNat ∧ 1 ≤ (sub1000 p q).1.toNat) ∧
    (q.toNat ≤ p.toNat → (sub1000 p q).1.toNat = p.toNat - q.toNat) ∧ (sub1000 p q).1.IsCell

/-- R155: the bit-level ALU gives identical results on cell values, and they lie in 0..999. -/
def Obligations.BitLevelAluAgrees : Prop :=
  ∀ p q : Word, p.IsCell → q.IsCell →
    add1000Bits p q = add1000 p q ∧ sub1000Bits p q = sub1000 p q ∧
    (add1000Bits p q).IsCell ∧ (sub1000Bits p q).1.IsCell ∧ ((sub1000Bits p q).2 = true ↔ p.toNat < q.toNat)

/-- R29: `inc(p) = (p + 1) mod 1000`, `inc(999) = 0`, `inc(99) = 100`, and a non-branching instruction executed at
address 99 leaves PC = 100. -/
def Obligations.IncrementWrapsModulo1000 : Prop :=
  (∀ p : Word, (inc p).toNat = (p.toNat + 1) % 1000) ∧ inc 999#10 = 0#10 ∧ inc 99#10 = 100#10 ∧
  ∀ (i : Instr) (s t : State), (∀ a, i ≠ .bra a ∧ i ≠ .brz a ∧ i ≠ .brp a) → s.pc = 99#10 → exec i s = .next t →
    t.pc = 100#10

/-! ### The instructions: result, frame, completion -/

/-- R152. -/
def Obligations.AddCompletesWithSum : Prop :=
  ∀ (a : Nat) (s : State), a < 100 → s.halted = false → s.InRange →
    ∃ t, exec (.add a) s = .next t ∧
      t.acc.toNat = (s.acc.toNat + (Memory.read s.mem (effectiveAddress a)).toNat) % 1000 ∧
      t.pc.toNat = (s.pc.toNat + 1) % 1000 ∧ t.neg = s.neg ∧ s.MemoryKept t ∧ s.PortsKept t ∧ s.GoesOn t

/-- R153: NEG is set exactly when `ACC < m`, and cleared otherwise. -/
def Obligations.SubCompletesWithDifference : Prop :=
  ∀ (a : Nat) (s : State), a < 100 → s.halted = false → s.InRange →
    ∃ t, exec (.sub a) s = .next t ∧
      t.acc.toNat = (s.acc.toNat + 1000 - (Memory.read s.mem (effectiveAddress a)).toNat) % 1000 ∧
      t.neg = decide (s.acc.toNat < (Memory.read s.mem (effectiveAddress a)).toNat) ∧
      t.pc.toNat = (s.pc.toNat + 1) % 1000 ∧ s.MemoryKept t ∧ s.PortsKept t ∧ s.GoesOn t

/-- R171. -/
def Obligations.LdaCompletesWithCell : Prop :=
  ∀ (a : Nat) (s : State), a < 100 → s.halted = false → s.InRange →
    ∃ t, exec (.lda a) s = .next t ∧ t.acc = Memory.read s.mem (effectiveAddress a) ∧
      t.pc.toNat = (s.pc.toNat + 1) % 1000 ∧ t.neg = s.neg ∧ s.MemoryKept t ∧ s.PortsKept t ∧ s.GoesOn t

/-- R172: the cell at the effective address, which may be the instruction's own, takes ACC; every other cell reads as
before. -/
def Obligations.StaCompletesStoringAcc : Prop :=
  ∀ (a : Nat) (s : State), a < 100 → s.halted = false → s.InRange →
    ∃ t, exec (.sta a) s = .next t ∧ Memory.read t.mem (effectiveAddress a) = s.acc ∧
      (∀ b, b ≠ effectiveAddress a → Memory.read t.mem b = Memory.read s.mem b) ∧
      t.pc.toNat = (s.pc.toNat + 1) % 1000 ∧ t.acc = s.acc ∧ t.neg = s.neg ∧ s.PortsKept t ∧ s.GoesOn t

/-- R191. -/
def Obligations.BraCompletesAtTarget : Prop :=
  ∀ (a : Nat) (s : State), a < 100 → s.halted = false →
    ∃ t, exec (.bra a) s = .next t ∧ t.pc.toNat = a ∧
      t.acc = s.acc ∧ t.neg = s.neg ∧ s.MemoryKept t ∧ s.PortsKept t ∧ s.GoesOn t

/-- R192: on ACC alone, whatever NEG is. -/
def Obligations.BrzCompletesOnAccumulator : Prop :=
  ∀ (a : Nat) (s : State), a < 100 → s.halted = false →
    ∃ t, exec (.brz a) s = .next t ∧
      t.pc.toNat = (if s.acc.toNat = 0 then a else (s.pc.toNat + 1) % 1000) ∧
      t.acc = s.acc ∧ t.neg = s.neg ∧ s.MemoryKept t ∧ s.PortsKept t ∧ s.GoesOn t

/-- R193: on NEG alone, whatever ACC is; "BRP does not clear NEG". -/
def Obligations.BrpCompletesOnNegativeFlag : Prop :=
  ∀ (a : Nat) (s : State), a < 100 → s.halted = false →
    ∃ t, exec (.brp a) s = .next t ∧
      t.pc.toNat = (if s.neg = false then a else (s.pc.toNat + 1) % 1000) ∧
      t.acc = s.acc ∧ t.neg = s.neg ∧ s.MemoryKept t ∧ s.PortsKept t ∧ s.GoesOn t

/-- R213: when the input device offers `x`, one transfer happens and ACC is `norm(x)`. -/
def Obligations.InpCompletesWithInputValue : Prop :=
  ∀ (s : State) (x : Word), s.halted = false → s.input.offer = some x →
    ∃ t, exec .inp s = .next t ∧ t.acc.toNat = x.toNat % 1000 ∧
      t.pc.toNat = (s.pc.toNat + 1) % 1000 ∧ t.neg = s.neg ∧ s.MemoryKept t ∧
      t.input = s.input.consume ∧ t.output = s.output ∧ t.portLog = s.portLog ++ [.input x] ∧ s.GoesOn t

/-- R215: when the output device is ready, one transfer of ACC happens. -/
def Obligations.OutCompletesWithTransfer : Prop :=
  ∀ s : State, s.halted = false → s.output.ready = true →
    ∃ t, exec .out s = .next t ∧ t.output = s.output.write s.acc ∧
      t.output.snapshot = s.output.snapshot ++ [s.acc] ∧ t.portLog = s.portLog ++ [.output s.acc] ∧
      t.input = s.input ∧ t.pc.toNat = (s.pc.toNat + 1) % 1000 ∧
      t.acc = s.acc ∧ t.neg = s.neg ∧ s.MemoryKept t ∧ s.GoesOn t

/-- R281 b, R211, R213, R134: while the device offers nothing INP is not enabled: no next state (THE STOP'S NAME is the
model's form: log 6), and it is enabled again by any device that offers a value. At the clock edges the engine goes to
WAIT_IN and stays there with `in_req` driven and nothing else changed. -/
def Obligations.InpWaitsWithoutInput : Prop :=
  ∀ s : State, s.input.offer = none →
    exec .inp s = .fault .awaitsInput ∧
    (∀ (d : InputDevice) (x : Word), d.offer = some x → ∃ t, exec .inp { s with input := d } = .next t) ∧
    (∀ p : HostPins, p.rst = false → s.phase = .exec → decode s.ir = .ok .inp →
      clockEdge p s = .next { s with phase := .waitIn }) ∧
    (∀ p : HostPins, s.phase = .waitIn →
      (engineOutputs p s).inReq = true ∧ (p.rst = false → clockEdge p s = .next s))

/-- R281 c, R214, R215, R134: the same for OUT, with WAIT_OUT, `out_valid` and `out_data = ACC` (log 6). -/
def Obligations.OutWaitsWithoutReady : Prop :=
  ∀ s : State, s.output.ready = false →
    exec .out s = .fault .awaitsOutput ∧
    (∀ d : OutputDevice, d.ready = true → ∃ t, exec .out { s with output := d } = .next t) ∧
    (∀ p : HostPins, p.rst = false → s.phase = .exec → decode s.ir = .ok .out →
      clockEdge p s = .next { s with phase := .waitOut }) ∧
    (∀ p : HostPins, s.phase = .waitOut →
      (engineOutputs p s).outValid = true ∧ (engineOutputs p s).outData = s.acc ∧ (p.rst = false → clockEdge p s = .next s))

/-- R126: HALT, whatever its operand digits. -/
def Obligations.HaltStopsTheEngine : Prop :=
  ∀ (x : Nat) (s : State),
    ∃ t, exec (.halt x) s = .next t ∧ t.Halts .haltInstr ∧ t.pc.toNat = (s.pc.toNat + 1) % 1000 ∧
      t.acc = s.acc ∧ t.neg = s.neg ∧ s.MemoryKept t ∧ s.PortsKept t

/-- R127, for the three illegal rows of the opcode map: `illegalOpcode4`, `illegal900`, `illegal903`. -/
def Obligations.IllegalRowsTakeTheFault : Prop :=
  ∀ (i : Instr) (s : State), i.isIllegal = true →
    ∃ t, exec i s = .next t ∧ t.Halts .illegal ∧ t.pc.toNat = (s.pc.toNat + 1) % 1000 ∧
      t.acc = s.acc ∧ t.neg = s.neg ∧ s.MemoryKept t ∧ s.PortsKept t

/-- R96, with R124: a latched word takes the illegal-instruction fault exactly when it is one of the three ranges,
opcode 10 among them; every other word is an instruction of a row that is not illegal. -/
def Obligations.IllegalEncodingsAreExactlyTheThreeRanges : Prop :=
  ∀ s : State, s.halted = false → s.phase = .exec →
    (isIllegalWord s.ir = true →
      ∃ t, step s = .next t ∧ t.Halts .illegal ∧ t.pc.toNat = (s.pc.toNat + 1) % 1000 ∧
        t.acc = s.acc ∧ t.neg = s.neg ∧ s.MemoryKept t ∧ s.PortsKept t) ∧
    (isIllegalWord s.ir = false →
      ∃ i, decode s.ir = .ok i ∧ i.isIllegal = false ∧ ∀ t, step s = .next t → t.haltCause = .illegal → s.haltCause = .illegal)

/-- Whatever the instruction: it changes no cell but the one it stores to (R64, R66). -/
def Obligations.OnlyTheStoredCellChanges : Prop :=
  ∀ (i : Instr) (s t : State), exec i s = .next t →
    ∀ b, storedCell i ≠ some b → Memory.read t.mem b = Memory.read s.mem b

/-- R68, R61 b (MODEL'S CHOICE of the stop: log 10): an instruction that accesses a cell stops by name on an operand
outside 0..99, and no decoded word does. -/
def Obligations.OperandOutsideMemoryStops : Prop :=
  (∀ (a : Nat) (s : State), 100 ≤ a → ∀ i ∈ [Instr.add a, .sub a, .sta a, .lda a],
    exec i s = .fault (.noSuchCell a)) ∧
  (∀ (v : Word) (i : Instr) (s : State) (a : Nat), decode v = .ok i → exec i s ≠ .fault (.noSuchCell a))

/-- R156: "Immediately after a SUB, ACC = 0 implies NEG = 0", and NEG = 1 implies ACC in 1..999. -/
def Obligations.ZeroAfterSubMeansNoBorrow : Prop :=
  ∀ (a : Nat) (s t : State), s.InRange → exec (.sub a) s = .next t →
    (t.acc = 0 → t.neg = false) ∧ (t.neg = true → 1 ≤ t.acc.toNat ∧ t.acc.toNat ≤ 999)

/-- R194: `SUB m` then `BRP t` branches exactly when ACC was at least `M[m]`; `SUB m` then `BRZ t` exactly when they
were equal. -/
def Obligations.SubThenBranchCompares : Prop :=
  ∀ (m target : Nat) (s : State), m < 100 → target < 100 → s.halted = false → s.InRange →
    ∃ u v w, exec (.sub m) s = .next u ∧ exec (.brp target) u = .next v ∧ exec (.brz target) u = .next w ∧
      v.pc.toNat = (if (Memory.read s.mem m).toNat ≤ s.acc.toNat then target else (s.pc.toNat + 2) % 1000) ∧
      w.pc.toNat = (if s.acc = Memory.read s.mem m then target else (s.pc.toNat + 2) % 1000)

/-- R243, R216: an instruction other than INP and OUT neither reads nor changes the devices. -/
def Obligations.OnlyIoDependsOnDevices : Prop :=
  ∀ (i : Instr) (s t : State), i.isIo = false → exec i s = .next t →
    ∀ (d : InputDevice) (o : OutputDevice) (l : List PortEvent),
      exec i { s with input := d, output := o, portLog := l } = .next { t with input := d, output := o, portLog := l }

/-! ### The step -/

/-- R120, R122, R125: at the beginning of a step, with PC in 0..99, a step is the decoded instruction executed with IR
latched (and PHASE at EXEC: log 12). -/
def Obligations.StepRunsTheFetchedInstruction : Prop :=
  ∀ (s : State) (i : Instr), s.AtStepStart → s.pc.toNat < 100 → decode (Memory.read s.mem s.pc.toNat) = .ok i →
    i.wellFormed = true ∧ step s = exec i { s with ir := Memory.read s.mem s.pc.toNat, phase := .exec }

/-- R129: a step that begins with HALTED = 0 and PC >= 100. -/
def Obligations.FetchRangeFaultKeepsPc : Prop :=
  ∀ s : State, s.AtStepStart → 100 ≤ s.pc.toNat →
    ∃ t, step s = .next t ∧ t.Halts .fetchRange ∧ t.pc = s.pc ∧
      t.acc = s.acc ∧ t.neg = s.neg ∧ s.MemoryKept t ∧ s.PortsKept t

/-- R130: a step while halted changes no state. -/
def Obligations.StepWhileHaltedIsNoOp : Prop :=
  ∀ s : State, s.halted = true → step s = .next s

/-- R242, R128: a faulting step writes only HALTED, HALT_CAUSE and, for ILLEGAL, the advanced PC. -/
def Obligations.FaultsArePrecise : Prop :=
  ∀ s t : State, s.halted = false → step s = .next t → t.EndedInFault →
    t.acc = s.acc ∧ t.neg = s.neg ∧ s.MemoryKept t ∧ s.PortsKept t ∧
    (t.haltCause = .illegal → t.pc.toNat = (s.pc.toNat + 1) % 1000) ∧ (t.haltCause = .fetchRange → t.pc = s.pc)

/-- R240, R246, R68: "a running program can never crash the engine", and R281: a step answers a next state in every
state but where it is not enabled, an INP or OUT whose device does not act (named stops: log 6). -/
def Obligations.EveryEnabledStepAnswersNext : Prop :=
  ∀ s : State,
    (step s = .fault .awaitsInput ↔ s.AwaitsInput) ∧ (step s = .fault .awaitsOutput ↔ s.AwaitsOutput) ∧
    (¬ s.AwaitsInput → ¬ s.AwaitsOutput → ∃ t, step s = .next t)

/-- R132, R131, R34: RUN is cleared by a step exactly when the step halts, and at every step boundary PHASE is IDLE. -/
def Obligations.StepClearsRunExactlyAtHalt : Prop :=
  ∀ s t : State, s.halted = false → step s = .next t → t.run = (s.run && !t.halted) ∧ t.phase = .idle

/-- R73, R173: the fetch after a STA sees the stored value: with PC at the stored cell, the next step executes it. -/
def Obligations.StoreIsSeenByNextFetch : Prop :=
  ∀ (a : Nat) (s t : State) (i : Instr), a < 100 → s.InRange → exec (.sta a) s = .next t →
    decode s.acc = .ok i → t.halted = false →
    step { t with pc := BitVec.ofNat 10 a } = exec i { t with pc := BitVec.ofNat 10 a, ir := s.acc, phase := .exec }

/-- R30: within steps PC leaves 0..99 only by the advance from 99, so it stays in 0..100. -/
def Obligations.StepsKeepPcAtMost100 : Prop :=
  ∀ s t : State, s.Inv → s.pc.toNat ≤ 100 → step s = .next t → t.pc.toNat ≤ 100

/-- R135: a halted state is final, and a run has at most one end. R281: every run either ends, or comes to a step that
waits for its device, or is infinite, and only one of the three. That a run which comes to a wait goes no further, and
so that only one holds, is the model's choice: a run stops at a wait (log 6), and no device acts of its own within a run
(log 14), where R281 has the step enabled once the environment acts. -/
def Obligations.RunEndsOnceOrWaitsOrRunsForever : Prop :=
  (∀ (k : Nat) (s : State), s.halted = true → s.runFor k = .next s) ∧
  (∀ s t t' : State, s.EndsIn t → s.EndsIn t' → t = t') ∧
  (∀ s : State, (∃ t, s.EndsIn t) ∨ s.ComesToWait ∨ s.RunsForever) ∧
  (∀ s : State, ¬ ((∃ t, s.EndsIn t) ∧ s.ComesToWait) ∧ ¬ ((∃ t, s.EndsIn t) ∧ s.RunsForever) ∧
    ¬ (s.ComesToWait ∧ s.RunsForever))

/-! ### Invariants -/

/-- The invariant holds at power-on for every well-formed memory content and every device (R273), and at reset. -/
def Obligations.PowerOnMeetsInvariant : Prop :=
  (∀ (m : Memory) (i : InputDevice) (o : OutputDevice), Memory.wf m = true → (State.powerOn m i o).Inv) ∧ State.reset.Inv

/-- R20, R23, R32, R34: from every state that meets the invariant (cell values in range and memory canonical, HALTED
with its cause, PHASE with IR), a step leads to one that meets it. -/
def Obligations.StepKeepsInvariant : Prop :=
  ∀ s t : State, s.Inv → step s = .next t → t.Inv

/-- The same for every clock edge, whatever the host's pins; and between edges RUN is never set in IDLE, "with no idle
phase between" the steps of a RUN (R132, R134, log 7). -/
def Obligations.ClockEdgeKeepsInvariant : Prop :=
  ∀ (p : HostPins) (s t : State), s.Inv → clockEdge p s = .next t →
    t.Inv ∧ ((s.phase = .idle → s.run = false) → t.phase = .idle → t.run = false)

/-- The canonical form is one (log 1): memories in it that read alike are equal data, and every content of the 100
cells has one (R21). -/
def Obligations.CanonicalMemoryIsUnique : Prop :=
  (∀ m m' : Memory, Memory.wf m = true → Memory.wf m' = true →
    (∀ a, Memory.read m a = Memory.read m' a) → m = m') ∧
  (∀ f : Nat → Word, (∀ a, (f a).IsCell) → ∃ m, Memory.wf m = true ∧ ∀ a < 100, Memory.read m a = f a)

/-! ### The sequencer, the host, reset -/

/-- R134: from FETCH the reference sequencer's edges give exactly the step's result, with the next step begun at its
commit under RUN (log 7): one edge for the fetch-range fault, two for an instruction that is no I/O, three for INP and
OUT. From IDLE a `step` command puts one edge before them; at a step boundary under RUN the edges are those from FETCH.
Where the step is not enabled (log 6) the edges come to the wait phase and stay. What `step` does from IDLE and FETCH is
log 12. -/
def Obligations.SequencerRefinesStep : Prop :=
  ∀ s : State, s.halted = false → s.phase = .fetch →
    (∃ n, 1 ≤ n ∧ n ≤ 3 ∧
      (s.pc.toNat < 100 → (∀ i, decode (Memory.read s.mem s.pc.toNat) = .ok i → i.isIo = false) → n = 2) ∧
      ∀ t, step s = .next t →
        (∀ ps : List HostPins, ps.length = n → (∀ p ∈ ps, p.rst = false) → clockEdges ps s = .next (beginNextStep t)) ∧
        (∀ (p : HostPins) (ps : List HostPins), s.run = false → p.rst = false → p.command = some .step →
          ps.length = n → (∀ q ∈ ps, q.rst = false) →
          clockEdges (p :: ps) { s with phase := .idle } = step { s with phase := .idle })) ∧
    (∀ ps : List HostPins, s.run = true → ps ≠ [] → (∀ p ∈ ps, p.rst = false) →
      clockEdges ps { s with phase := .idle } = clockEdges ps s) ∧
    (s.AwaitsInput → ∀ ps : List HostPins, 2 ≤ ps.length → (∀ p ∈ ps, p.rst = false) →
      clockEdges ps s = .next (waitAt .waitIn (latch s))) ∧
    (s.AwaitsOutput → ∀ ps : List HostPins, 2 ≤ ps.length → (∀ p ∈ ps, p.rst = false) →
      clockEdges ps s = .next (waitAt .waitOut (latch s)))

/-- Every clock edge of every state answers a next state (R240, R134). -/
def Obligations.EveryClockEdgeAnswersNext : Prop :=
  ∀ (p : HostPins) (s : State), ∃ t, clockEdge p s = .next t

/-- R45, R121: an edge that leaves the step unfinished changes nothing but PHASE and IR, so the host sees the state as
it stood at the start of the step. -/
def Obligations.NothingVisibleBeforeCommit : Prop :=
  ∀ (p : HostPins) (s t : State), p.rst = false → clockEdge p s = .next t →
    t.phase = .exec ∨ t.phase = .waitIn ∨ t.phase = .waitOut →
    t = { s with phase := t.phase, ir := t.ir } ∧
    ∀ q, (engineOutputs q t).hrData = (engineOutputs q s).hrData ∧ (engineOutputs q t).pcO = (engineOutputs q s).pcO ∧
      (engineOutputs q t).accO = (engineOutputs q s).accO ∧ (engineOutputs q t).negO = (engineOutputs q s).negO ∧
      (engineOutputs q t).haltedO = (engineOutputs q s).haltedO ∧ (engineOutputs q t).causeO = (engineOutputs q s).causeO

/-- R270, R271, R275: `rst`, in every state and whatever else is asserted: the registers, RUN and PHASE at their reset
values, memory unchanged, no device transfer; the devices reset (R217). That `io_rst` is driven in the cycle of `rst`,
and recorded once at that edge, is the model's choice: log 18. -/
def Obligations.MachineResetFromEveryState : Prop :=
  ∀ (p : HostPins) (s : State), p.rst = true →
    ∃ t, clockEdge p s = .next t ∧ t.pc = 0 ∧ t.acc = 0 ∧ t.neg = false ∧ t.halted = false ∧ t.haltCause = .none ∧
      t.run = false ∧ t.phase = .idle ∧ s.MemoryKept t ∧ t.input = s.input.reset ∧ t.output = s.output.reset ∧
      t.portLog = s.portLog ++ [.ioReset] ∧ (engineOutputs p s).ioRst = true

/-- R273, R274: power-on: every register at its reset value, memory as given; the first fetch is from address 0. The
devices are reset once (R217, R273); that the pulse lies before this state, which records it, is the model's choice: log
19. -/
def Obligations.PowerOnRegisters : Prop :=
  ∀ (m : Memory) (i : InputDevice) (o : OutputDevice),
    let s := State.powerOn m i o
    s.pc = 0 ∧ s.acc = 0 ∧ s.neg = false ∧ s.halted = false ∧ s.haltCause = .none ∧ s.run = false ∧ s.phase = .idle ∧
    s.mem = m ∧ s.input = i.reset ∧ s.output = o.reset ∧ s.portLog = [.ioReset] ∧
    fetchedWord s = Memory.read m 0 ∧ fetchable s = true

/-- R272: an accepted `mem_clr` writes 0 to every cell and changes nothing else. -/
def Obligations.MemoryClearZeroesEveryCell : Prop :=
  ∀ (p : HostPins) (s : State), p.rst = false → p.memClr = true → acceptsCommand s = true →
    ∃ t, clockEdge p s = .next t ∧ (∀ a < 100, Memory.read t.mem a = 0) ∧ t = { s with mem := t.mem }

/-- R42, R43: an accepted host write writes the one thing `hw_sel` chooses, `norm(hw_data)` or its bit 0, whether or not
the engine is halted; memory addresses 100..127 write nothing. -/
def Obligations.HostWriteWritesOneThing : Prop :=
  ∀ (p : HostPins) (s : State), Memory.wf s.mem = true → p.rst = false → p.memClr = false → p.hwEn = true →
    acceptsCommand s = true →
    ∃ t, clockEdge p s = .next t ∧
      (p.hwSel = 0#2 → t = { s with mem := t.mem } ∧
        (∀ b, b ≠ p.hwAddr.toNat → Memory.read t.mem b = Memory.read s.mem b) ∧
        (p.hwAddr.toNat ≤ 99 → (Memory.read t.mem p.hwAddr.toNat).toNat = p.hwData.toNat % 1000) ∧
        (100 ≤ p.hwAddr.toNat → t = s)) ∧
      (p.hwSel = 1#2 → t = { s with pc := t.pc } ∧ t.pc.toNat = p.hwData.toNat % 1000) ∧
      (p.hwSel = 2#2 → t = { s with acc := t.acc } ∧ t.acc.toNat = p.hwData.toNat % 1000) ∧
      (p.hwSel = 3#2 → t = { s with neg := t.neg } ∧ t.neg = p.hwData.getLsbD 0)

/-- R132, R131, R130: an accepted `run` does nothing when halted, else sets RUN and begins a step; an accepted `step`
likewise without RUN. -/
def Obligations.RunAndStepCommands : Prop :=
  ∀ (p : HostPins) (s : State), p.rst = false → p.memClr = false → p.hwEn = false → acceptsCommand s = true →
    (s.halted = true → clockEdge p s = .next s) ∧
    (s.halted = false → p.run = true → clockEdge p s = .next { s with run := true, phase := .fetch }) ∧
    (s.halted = false → p.run = false → p.step = true → clockEdge p s = .next { s with phase := .fetch }) ∧
    (s.halted = false → p.run = false → p.step = false → clockEdge p s = .next s)

/-- R41, R279: while a step is in progress or RUN is set, no command but `rst` has any effect. -/
def Obligations.BusyEngineIgnoresCommands : Prop :=
  ∀ (p : HostPins) (s : State), p.rst = false → acceptsCommand s = false → clockEdge p s = clockEdge HostPins.quiet s

/-- R41, R245: of the commands asserted at one edge only the first in the order `rst`, `mem_clr`, host write, `run`,
`step` takes effect: lowering every later one changes nothing. -/
def Obligations.CommandPriority : Prop :=
  ∀ (p : HostPins) (s : State),
    (p.rst = true → clockEdge p s = clockEdge { HostPins.quiet with rst := true } s) ∧
    (p.rst = false → p.memClr = true → clockEdge p s = clockEdge { HostPins.quiet with memClr := true } s) ∧
    (p.rst = false → p.memClr = false → p.hwEn = true → clockEdge p s = clockEdge { p with run := false, step := false } s) ∧
    (p.rst = false → p.memClr = false → p.hwEn = false → p.run = true →
      clockEdge p s = clockEdge { HostPins.quiet with run := true } s)

/-- R44, R211, R214: the status outputs are views of the committed state. -/
def Obligations.OutputsAreViews : Prop :=
  ∀ (p : HostPins) (s : State),
    (p.hrAddr.toNat ≤ 99 → (engineOutputs p s).hrData = Memory.read s.mem p.hrAddr.toNat) ∧
    (engineOutputs p s).pcO = s.pc ∧ (engineOutputs p s).accO = s.acc ∧ (engineOutputs p s).negO = s.neg ∧
    (engineOutputs p s).haltedO = s.halted ∧ (engineOutputs p s).runO = s.run ∧
    ((engineOutputs p s).busyO = true ↔ s.phase ≠ .idle) ∧
    ((engineOutputs p s).inReq = true ↔ s.phase = .waitIn) ∧ ((engineOutputs p s).outValid = true ↔ s.phase = .waitOut) ∧
    (s.phase = .waitOut → (engineOutputs p s).outData = s.acc) ∧
    ((engineOutputs p s).causeO = 0#2 ↔ s.haltCause = .none) ∧ ((engineOutputs p s).causeO = 1#2 ↔ s.haltCause = .haltInstr) ∧
    ((engineOutputs p s).causeO = 2#2 ↔ s.haltCause = .illegal) ∧ ((engineOutputs p s).causeO = 3#2 ↔ s.haltCause = .fetchRange)

/-- R277: a program of at most 100 values, loaded while the engine accepts commands, stands in the first cells,
normalized; the later cells and everything else are as before. -/
def Obligations.ProgramLoadFillsFirstCells : Prop :=
  ∀ (p : List Word) (s : State), Memory.wf s.mem = true → acceptsCommand s = true → p.length ≤ 100 →
    (∀ (i : Nat) (h : i < p.length), Memory.read (loadProgram p s).mem i = norm p[i]) ∧
    (∀ i, p.length ≤ i → Memory.read (loadProgram p s).mem i = Memory.read s.mem i) ∧
    loadProgram p s = { s with mem := (loadProgram p s).mem }

/-! ### Who writes what, over every clock edge -/

/-- R25: only `rst`, an accepted host write of NEG, and SUB's commit change NEG. -/
def Obligations.OnlySubHostAndResetWriteNeg : Prop :=
  ∀ (p : HostPins) (s t : State), clockEdge p s = .next t → t.neg ≠ s.neg →
    p.rst = true ∨
    (acceptsCommand s = true ∧ ∃ addr data, p.command = some (.write .neg addr data)) ∨
    (s.phase = .exec ∧ ∃ a, decode s.ir = .ok (.sub a))

/-- R24: only `rst`, an accepted host write of ACC, the commits of LDA, ADD and SUB, and INP's transfer change ACC. -/
def Obligations.OnlyListedWritersChangeAcc : Prop :=
  ∀ (p : HostPins) (s t : State), clockEdge p s = .next t → t.acc ≠ s.acc →
    p.rst = true ∨
    (acceptsCommand s = true ∧ ∃ addr data, p.command = some (.write .acc addr data)) ∨
    (s.phase = .exec ∧ ∃ a, decode s.ir = .ok (.lda a) ∨ decode s.ir = .ok (.add a) ∨ decode s.ir = .ok (.sub a)) ∨
    (s.phase = .waitIn ∧ ∃ x, s.input.offer = some x)

/-- R22: only an accepted `mem_clr`, an accepted host write of memory and STA's commit change a cell, and the last two
change one cell alone. -/
def Obligations.OnlyListedWritersChangeMemory : Prop :=
  ∀ (p : HostPins) (s t : State) (b : Nat), clockEdge p s = .next t → Memory.read t.mem b ≠ Memory.read s.mem b →
    p.rst = false ∧
    ((acceptsCommand s = true ∧ p.command = some .memClear) ∨
     (acceptsCommand s = true ∧ ∃ data, p.command = some (.write .mem (BitVec.ofNat 7 b) data) ∧ b ≤ 99) ∨
     (s.phase = .exec ∧ ∃ a, decode s.ir = .ok (.sta a) ∧ b = effectiveAddress a))

/-- R31, R46, R247: only `rst` clears HALTED, and only a commit of HALT, of an illegal encoding or of the fetch-range
fault (in FETCH, or at a step boundary under RUN, where the fetch is at once: log 7) sets it. -/
def Obligations.OnlyResetClearsHalted : Prop :=
  ∀ (p : HostPins) (s t : State), clockEdge p s = .next t →
    (s.halted = true → t.halted = false → p.rst = true) ∧
    (s.halted = false → t.halted = true →
      p.rst = false ∧
      (((s.phase = .fetch ∨ (s.phase = .idle ∧ s.run = true)) ∧ 100 ≤ s.pc.toNat ∧ t.haltCause = .fetchRange) ∨
       (s.phase = .exec ∧ isIllegalWord s.ir = true ∧ t.haltCause = .illegal) ∨
       (s.phase = .exec ∧ s.ir.toNat ≤ 99 ∧ t.haltCause = .haltInstr)))

/-- R216, R211, R214: the port events of an edge: in WAIT_IN with a value offered exactly one input transfer, in
WAIT_OUT with the device ready exactly one output transfer of ACC, and in every other case none, `rst` apart, which
transfers nothing. That `rst` records one `io_rst` at its edge (R217) is the model's choice: log 18. -/
def Obligations.PortEventsOnlyFromIoAndReset : Prop :=
  ∀ (p : HostPins) (s t : State), clockEdge p s = .next t →
    (p.rst = true ∧ t.portLog = s.portLog ++ [.ioReset]) ∨
    (p.rst = false ∧ s.phase = .waitIn ∧ ∃ x, s.input.offer = some x ∧ t.portLog = s.portLog ++ [.input x] ∧
      t.input = s.input.consume ∧ t.output = s.output) ∨
    (p.rst = false ∧ s.phase = .waitOut ∧ s.output.ready = true ∧ t.portLog = s.portLog ++ [.output s.acc] ∧
      t.output = s.output.write s.acc ∧ t.input = s.input) ∨
    (p.rst = false ∧ ¬ (s.phase = .waitIn ∧ s.input.offer ≠ none) ∧ ¬ (s.phase = .waitOut ∧ s.output.ready = true) ∧
      s.PortsKept t)

/-! ### The reference devices -/

/-- R220: the chained input gives its values and then its fallback's, without advancing its own cursor further; after
its reset it gives the same again (here with a constant fallback, R219). -/
def Obligations.ChainedInputReadsThenFallsBack : Prop :=
  (∀ (values : List Word) (fallback : InputDevice) (k : Nat),
    (InputDevice.chained values 0 fallback).reads (values.length + k) = values ++ fallback.reads k) ∧
  (∀ (values : List Word) (c : Word) (n : Nat),
    (InputDevice.consume^[n] (.chained values 0 (.constant c))).reset = .chained values 0 (.constant c)) ∧
  (∀ (c : Word) (k : Nat), (InputDevice.constant c).reads k = List.replicate k c)
end

