-- ==== Sys2Proof/Laws/Arith.lean ====
section
/-! SUPPORT. The arithmetic read as natural numbers: `norm`, `inc` and the ALU's results stay in 0..999 (R14, R23). -/

namespace Sys2Proof.Machine

theorem norm_toNat (v : Word) : (norm v).toNat = v.toNat % 1000 := by
  have h := Nat.mod_lt v.toNat (by decide : 1000 > 0)
  simp only [norm, Config.modulus, BitVec.toNat_ofNat]
  omega

theorem norm_isCell (v : Word) : (norm v).IsCell := by
  simp only [Word.IsCell, norm_toNat]
  omega

theorem norm_of_isCell {v : Word} (h : v.IsCell) : norm v = v := by
  apply BitVec.eq_of_toNat_eq
  rw [norm_toNat]
  exact Nat.mod_eq_of_lt h

theorem inc_toNat (p : Word) : (inc p).toNat = (p.toNat + 1) % 1000 := by
  have h := Nat.mod_lt (p.toNat + 1) (by decide : 1000 > 0)
  simp only [inc, Config.modulus, BitVec.toNat_ofNat]
  omega

theorem inc_isCell (p : Word) : (inc p).IsCell := by
  simp only [Word.IsCell, inc_toNat]
  omega

theorem add1000_isCell {p q : Word} (hp : p.IsCell) (hq : q.IsCell) : (add1000 p q).IsCell := by
  simp only [Word.IsCell, add1000, Config.modulus, BitVec.toNat_ofNat] at *
  split_ifs <;> omega

theorem sub1000_isCell {p q : Word} (hp : p.IsCell) (hq : q.IsCell) : (sub1000 p q).1.IsCell := by
  simp only [Word.IsCell, sub1000, Config.modulus] at *
  split_ifs <;> simp only [BitVec.toNat_ofInt] <;> omega

end Sys2Proof.Machine
end

