-- ==== Sys2Proof/Laws/Memory.lean ====
section
/-! SUPPORT. Memory's laws: a cell read after a write, the canonical form kept by every memory operation, and what the
canonical form says of a read (R22, R23). -/

namespace Sys2Proof.Machine

@[simp] theorem Memory.read_nil (a : Nat) : Memory.read [] a = 0 := rfl

theorem Memory.read_putFront (a b : Nat) (v : Word) (m : Memory) (h : Memory.read m a = 0) :
    Memory.read (Memory.putFront a v m) b = if b = a then v else Memory.read m b := by
  unfold Memory.putFront Memory.unlisted
  split
  · subst_vars
    split <;> simp_all
  · rfl

/-- An address below every entry reads as unlisted. -/
theorem Memory.read_below {lo : Nat} {m : Memory} (h : Memory.wfFrom lo m = true) {a : Nat} (ha : a < lo) :
    Memory.read m a = 0 := by
  induction m generalizing lo with
  | nil => rfl
  | cons e m ih =>
    obtain ⟨b, w⟩ := e
    simp only [Memory.wfFrom, Bool.and_eq_true, decide_eq_true_eq] at h
    have hne : a ≠ b := by omega
    simp only [Memory.read, hne, if_false]
    exact ih h.2 (by omega)

theorem Memory.wfFrom_mono {lo lo' : Nat} {m : Memory} (h : Memory.wfFrom lo m = true) (hle : lo' ≤ lo) :
    Memory.wfFrom lo' m = true := by
  cases m with
  | nil => rfl
  | cons e m =>
    simp only [Memory.wfFrom, Bool.and_eq_true, decide_eq_true_eq] at h ⊢
    exact ⟨⟨⟨⟨by omega, h.1.1.1.2⟩, h.1.1.2⟩, h.1.2⟩, h.2⟩

theorem Memory.wfFrom_putFront {lo a : Nat} {v : Word} {m : Memory} (hlo : lo ≤ a) (ha : a < 100) (hv : v.IsCell)
    (hm : Memory.wfFrom (a + 1) m = true) : Memory.wfFrom lo (Memory.putFront a v m) = true := by
  unfold Memory.putFront
  split
  · exact Memory.wfFrom_mono hm (by omega)
  · simp only [Memory.wfFrom, Bool.and_eq_true, decide_eq_true_eq]
    exact ⟨⟨⟨⟨hlo, ha⟩, hv⟩, by assumption⟩, hm⟩

theorem Memory.wfFrom_set {lo a : Nat} {v : Word} {m : Memory} (hm : Memory.wfFrom lo m = true) (hlo : lo ≤ a)
    (ha : a < 100) (hv : v.IsCell) : Memory.wfFrom lo (Memory.set m a v) = true := by
  induction m generalizing lo with
  | nil => exact Memory.wfFrom_putFront hlo ha hv rfl
  | cons e m ih =>
    obtain ⟨b, w⟩ := e
    have h := hm
    simp only [Memory.wfFrom, Bool.and_eq_true, decide_eq_true_eq] at h
    simp only [Memory.set]
    split
    · refine Memory.wfFrom_putFront hlo ha hv ?_
      simp only [Memory.wfFrom, Bool.and_eq_true, decide_eq_true_eq]
      exact ⟨⟨⟨⟨by omega, h.1.1.1.2⟩, h.1.1.2⟩, h.1.2⟩, h.2⟩
    · split
      · subst_vars
        exact Memory.wfFrom_putFront hlo ha hv h.2
      · simp only [Memory.wfFrom, Bool.and_eq_true, decide_eq_true_eq]
        exact ⟨h.1, ih h.2 (by omega)⟩

/-- A read after storing the value `v` itself, in a memory in canonical form. -/
theorem Memory.read_set {lo : Nat} {m : Memory} (hm : Memory.wfFrom lo m = true) (a b : Nat) (v : Word) :
    Memory.read (Memory.set m a v) b = if b = a then v else Memory.read m b := by
  induction m generalizing lo with
  | nil => exact Memory.read_putFront a b v [] rfl
  | cons e m ih =>
    obtain ⟨c, w⟩ := e
    have h := hm
    simp only [Memory.wfFrom, Bool.and_eq_true, decide_eq_true_eq] at h
    simp only [Memory.set]
    split
    · have hlow : Memory.read ((c, w) :: m) a = 0 := by
        have hne : a ≠ c := by omega
        simp only [Memory.read, hne, if_false]
        exact Memory.read_below h.2 (by omega)
      exact Memory.read_putFront a b v _ hlow
    · split
      · rename_i hac
        subst hac
        rw [Memory.read_putFront a b v m (Memory.read_below h.2 (by omega))]
        by_cases hb : b = a <;> simp [Memory.read, hb]
      · simp only [Memory.read]
        rw [ih h.2]
        by_cases hb : b = c
        · have : b ≠ a := by omega
          simp [hb, show c ≠ a by omega]
        · simp [hb]

/-- Every other cell reads as before, canonical form or not. -/
theorem Memory.read_set_other (m : Memory) {a b : Nat} (v : Word) (h : b ≠ a) :
    Memory.read (Memory.set m a v) b = Memory.read m b := by
  have hfront : ∀ m' : Memory, Memory.read (Memory.putFront a v m') b = Memory.read m' b := by
    intro m'
    unfold Memory.putFront
    split
    · rfl
    · simp [Memory.read, h]
  induction m with
  | nil => exact hfront []
  | cons e m ih =>
    obtain ⟨c, w⟩ := e
    simp only [Memory.set]
    split
    · exact hfront _
    · split
      · subst_vars
        rw [hfront]
        simp [Memory.read, h]
      · simp only [Memory.read, ih]

theorem Memory.wf_write {m : Memory} (hm : Memory.wf m = true) {a : Nat} (ha : a < 100) (v : Word) :
    Memory.wf (Memory.write m a v) = true :=
  Memory.wfFrom_set hm (Nat.zero_le a) ha (norm_isCell v)

theorem Memory.read_write {m : Memory} (hm : Memory.wf m = true) (a b : Nat) (v : Word) :
    Memory.read (Memory.write m a v) b = if b = a then norm v else Memory.read m b :=
  Memory.read_set hm a b (norm v)

theorem Memory.read_write_other (m : Memory) {a b : Nat} (v : Word) (h : b ≠ a) :
    Memory.read (Memory.write m a v) b = Memory.read m b :=
  Memory.read_set_other m (norm v) h

theorem Memory.read_isCell {lo : Nat} {m : Memory} (hm : Memory.wfFrom lo m = true) (a : Nat) :
    (Memory.read m a).IsCell := by
  induction m generalizing lo with
  | nil => exact (by decide : (0 : Word).toNat < 1000)
  | cons e m ih =>
    obtain ⟨b, w⟩ := e
    simp only [Memory.wfFrom, Bool.and_eq_true, decide_eq_true_eq] at hm
    simp only [Memory.read]
    split
    · exact hm.1.1.2
    · exact ih hm.2

/-- Memory clear gives a memory in canonical form (R272). -/
theorem memClear_wf (s : State) : Memory.wf (memClear s).mem = true := rfl

/-- A host write of memory keeps the canonical form (R42, R43). -/
theorem hostWriteMem_wf {s : State} (h : Memory.wf s.mem = true) (addr : BitVec 7) (data : Word) :
    Memory.wf (hostWriteMem addr data s).mem = true := by
  unfold hostWriteMem
  split
  · exact Memory.wf_write h (by assumption) data
  · exact h

/-- The memory right after reset is in canonical form. -/
theorem reset_mem_wf : Memory.wf State.reset.mem = true := rfl

end Sys2Proof.Machine
end

