-- ==== Sys2Proof/Laws/State.lean ====
section
/-! SUPPORT. What each shared operation leaves in each field of State: one lemma a field, so that no proof unfolds a
record update. -/

namespace Sys2Proof.Machine

variable (s : State)

@[simp] theorem writeAcc_mem (v : Word) : (writeAcc v s).mem = s.mem := rfl
@[simp] theorem writeAcc_acc (v : Word) : (writeAcc v s).acc = v := rfl
@[simp] theorem writeAcc_neg (v : Word) : (writeAcc v s).neg = s.neg := rfl
@[simp] theorem writeAcc_pc (v : Word) : (writeAcc v s).pc = s.pc := rfl
@[simp] theorem writeAcc_halted (v : Word) : (writeAcc v s).halted = s.halted := rfl
@[simp] theorem writeAcc_haltCause (v : Word) : (writeAcc v s).haltCause = s.haltCause := rfl
@[simp] theorem writeAcc_run (v : Word) : (writeAcc v s).run = s.run := rfl
@[simp] theorem writeAcc_phase (v : Word) : (writeAcc v s).phase = s.phase := rfl
@[simp] theorem writeAcc_ir (v : Word) : (writeAcc v s).ir = s.ir := rfl
@[simp] theorem writeAcc_input (v : Word) : (writeAcc v s).input = s.input := rfl
@[simp] theorem writeAcc_output (v : Word) : (writeAcc v s).output = s.output := rfl
@[simp] theorem writeAcc_portLog (v : Word) : (writeAcc v s).portLog = s.portLog := rfl
@[simp] theorem writeAcc_freeCount (v : Word) : (writeAcc v s).freeCount = s.freeCount := rfl

@[simp] theorem writeNeg_mem (b : Bool) : (writeNeg b s).mem = s.mem := rfl
@[simp] theorem writeNeg_acc (b : Bool) : (writeNeg b s).acc = s.acc := rfl
@[simp] theorem writeNeg_neg (b : Bool) : (writeNeg b s).neg = b := rfl
@[simp] theorem writeNeg_pc (b : Bool) : (writeNeg b s).pc = s.pc := rfl
@[simp] theorem writeNeg_halted (b : Bool) : (writeNeg b s).halted = s.halted := rfl
@[simp] theorem writeNeg_haltCause (b : Bool) : (writeNeg b s).haltCause = s.haltCause := rfl
@[simp] theorem writeNeg_run (b : Bool) : (writeNeg b s).run = s.run := rfl
@[simp] theorem writeNeg_phase (b : Bool) : (writeNeg b s).phase = s.phase := rfl
@[simp] theorem writeNeg_ir (b : Bool) : (writeNeg b s).ir = s.ir := rfl
@[simp] theorem writeNeg_input (b : Bool) : (writeNeg b s).input = s.input := rfl
@[simp] theorem writeNeg_output (b : Bool) : (writeNeg b s).output = s.output := rfl
@[simp] theorem writeNeg_portLog (b : Bool) : (writeNeg b s).portLog = s.portLog := rfl
@[simp] theorem writeNeg_freeCount (b : Bool) : (writeNeg b s).freeCount = s.freeCount := rfl

@[simp] theorem writeCell_mem (a : Nat) (v : Word) : (writeCell a v s).mem = Memory.write s.mem a v := rfl
@[simp] theorem writeCell_acc (a : Nat) (v : Word) : (writeCell a v s).acc = s.acc := rfl
@[simp] theorem writeCell_neg (a : Nat) (v : Word) : (writeCell a v s).neg = s.neg := rfl
@[simp] theorem writeCell_pc (a : Nat) (v : Word) : (writeCell a v s).pc = s.pc := rfl
@[simp] theorem writeCell_halted (a : Nat) (v : Word) : (writeCell a v s).halted = s.halted := rfl
@[simp] theorem writeCell_haltCause (a : Nat) (v : Word) : (writeCell a v s).haltCause = s.haltCause := rfl
@[simp] theorem writeCell_run (a : Nat) (v : Word) : (writeCell a v s).run = s.run := rfl
@[simp] theorem writeCell_phase (a : Nat) (v : Word) : (writeCell a v s).phase = s.phase := rfl
@[simp] theorem writeCell_ir (a : Nat) (v : Word) : (writeCell a v s).ir = s.ir := rfl
@[simp] theorem writeCell_input (a : Nat) (v : Word) : (writeCell a v s).input = s.input := rfl
@[simp] theorem writeCell_output (a : Nat) (v : Word) : (writeCell a v s).output = s.output := rfl
@[simp] theorem writeCell_portLog (a : Nat) (v : Word) : (writeCell a v s).portLog = s.portLog := rfl
@[simp] theorem writeCell_freeCount (a : Nat) (v : Word) : (writeCell a v s).freeCount = s.freeCount := rfl

@[simp] theorem advance_mem : (advance s).mem = s.mem := rfl
@[simp] theorem advance_acc : (advance s).acc = s.acc := rfl
@[simp] theorem advance_neg : (advance s).neg = s.neg := rfl
@[simp] theorem advance_pc : (advance s).pc = inc s.pc := rfl
@[simp] theorem advance_halted : (advance s).halted = s.halted := rfl
@[simp] theorem advance_haltCause : (advance s).haltCause = s.haltCause := rfl
@[simp] theorem advance_run : (advance s).run = s.run := rfl
@[simp] theorem advance_phase : (advance s).phase = s.phase := rfl
@[simp] theorem advance_ir : (advance s).ir = s.ir := rfl
@[simp] theorem advance_input : (advance s).input = s.input := rfl
@[simp] theorem advance_output : (advance s).output = s.output := rfl
@[simp] theorem advance_portLog : (advance s).portLog = s.portLog := rfl
@[simp] theorem advance_freeCount : (advance s).freeCount = s.freeCount := rfl

@[simp] theorem jump_mem (a : Nat) : (jump a s).mem = s.mem := rfl
@[simp] theorem jump_acc (a : Nat) : (jump a s).acc = s.acc := rfl
@[simp] theorem jump_neg (a : Nat) : (jump a s).neg = s.neg := rfl
@[simp] theorem jump_pc (a : Nat) : (jump a s).pc = branchTarget a := rfl
@[simp] theorem jump_halted (a : Nat) : (jump a s).halted = s.halted := rfl
@[simp] theorem jump_haltCause (a : Nat) : (jump a s).haltCause = s.haltCause := rfl
@[simp] theorem jump_run (a : Nat) : (jump a s).run = s.run := rfl
@[simp] theorem jump_phase (a : Nat) : (jump a s).phase = s.phase := rfl
@[simp] theorem jump_ir (a : Nat) : (jump a s).ir = s.ir := rfl
@[simp] theorem jump_input (a : Nat) : (jump a s).input = s.input := rfl
@[simp] theorem jump_output (a : Nat) : (jump a s).output = s.output := rfl
@[simp] theorem jump_portLog (a : Nat) : (jump a s).portLog = s.portLog := rfl
@[simp] theorem jump_freeCount (a : Nat) : (jump a s).freeCount = s.freeCount := rfl

@[simp] theorem finishStep_mem : (finishStep s).mem = s.mem := rfl
@[simp] theorem finishStep_acc : (finishStep s).acc = s.acc := rfl
@[simp] theorem finishStep_neg : (finishStep s).neg = s.neg := rfl
@[simp] theorem finishStep_pc : (finishStep s).pc = s.pc := rfl
@[simp] theorem finishStep_halted : (finishStep s).halted = s.halted := rfl
@[simp] theorem finishStep_haltCause : (finishStep s).haltCause = s.haltCause := rfl
@[simp] theorem finishStep_run : (finishStep s).run = (s.run && !s.halted) := rfl
@[simp] theorem finishStep_phase : (finishStep s).phase = .idle := rfl
@[simp] theorem finishStep_ir : (finishStep s).ir = Config.freeIr s.freeCount := rfl
@[simp] theorem finishStep_input : (finishStep s).input = s.input := rfl
@[simp] theorem finishStep_output : (finishStep s).output = s.output := rfl
@[simp] theorem finishStep_portLog : (finishStep s).portLog = s.portLog := rfl
@[simp] theorem finishStep_freeCount : (finishStep s).freeCount = s.freeCount + 1 := rfl

@[simp] theorem takeHalt_mem (c : HaltCause) : (takeHalt c s).mem = s.mem := rfl
@[simp] theorem takeHalt_acc (c : HaltCause) : (takeHalt c s).acc = s.acc := rfl
@[simp] theorem takeHalt_neg (c : HaltCause) : (takeHalt c s).neg = s.neg := rfl
@[simp] theorem takeHalt_pc (c : HaltCause) : (takeHalt c s).pc = s.pc := rfl
@[simp] theorem takeHalt_halted (c : HaltCause) : (takeHalt c s).halted = true := rfl
@[simp] theorem takeHalt_haltCause (c : HaltCause) : (takeHalt c s).haltCause = c := rfl
@[simp] theorem takeHalt_run (c : HaltCause) : (takeHalt c s).run = false := by simp [takeHalt]
@[simp] theorem takeHalt_phase (c : HaltCause) : (takeHalt c s).phase = .idle := rfl
@[simp] theorem takeHalt_ir (c : HaltCause) : (takeHalt c s).ir = Config.freeIr s.freeCount := rfl
@[simp] theorem takeHalt_input (c : HaltCause) : (takeHalt c s).input = s.input := rfl
@[simp] theorem takeHalt_output (c : HaltCause) : (takeHalt c s).output = s.output := rfl
@[simp] theorem takeHalt_portLog (c : HaltCause) : (takeHalt c s).portLog = s.portLog := rfl
@[simp] theorem takeHalt_freeCount (c : HaltCause) : (takeHalt c s).freeCount = s.freeCount + 1 := rfl

@[simp] theorem takeIllegal_mem : (takeIllegal s).mem = s.mem := rfl
@[simp] theorem takeIllegal_acc : (takeIllegal s).acc = s.acc := rfl
@[simp] theorem takeIllegal_neg : (takeIllegal s).neg = s.neg := rfl
@[simp] theorem takeIllegal_pc : (takeIllegal s).pc = inc s.pc := rfl
@[simp] theorem takeIllegal_halted : (takeIllegal s).halted = true := rfl
@[simp] theorem takeIllegal_haltCause : (takeIllegal s).haltCause = .illegal := rfl
@[simp] theorem takeIllegal_run : (takeIllegal s).run = false := by simp [takeIllegal]
@[simp] theorem takeIllegal_phase : (takeIllegal s).phase = .idle := rfl
@[simp] theorem takeIllegal_ir : (takeIllegal s).ir = Config.freeIr s.freeCount := rfl
@[simp] theorem takeIllegal_input : (takeIllegal s).input = s.input := rfl
@[simp] theorem takeIllegal_output : (takeIllegal s).output = s.output := rfl
@[simp] theorem takeIllegal_portLog : (takeIllegal s).portLog = s.portLog := rfl
@[simp] theorem takeIllegal_freeCount : (takeIllegal s).freeCount = s.freeCount + 1 := rfl

@[simp] theorem takeFetchRange_mem : (takeFetchRange s).mem = s.mem := rfl
@[simp] theorem takeFetchRange_acc : (takeFetchRange s).acc = s.acc := rfl
@[simp] theorem takeFetchRange_neg : (takeFetchRange s).neg = s.neg := rfl
@[simp] theorem takeFetchRange_pc : (takeFetchRange s).pc = s.pc := rfl
@[simp] theorem takeFetchRange_halted : (takeFetchRange s).halted = true := rfl
@[simp] theorem takeFetchRange_haltCause : (takeFetchRange s).haltCause = .fetchRange := rfl
@[simp] theorem takeFetchRange_run : (takeFetchRange s).run = false := by simp [takeFetchRange]
@[simp] theorem takeFetchRange_phase : (takeFetchRange s).phase = .idle := rfl
@[simp] theorem takeFetchRange_ir : (takeFetchRange s).ir = Config.freeIr s.freeCount := rfl
@[simp] theorem takeFetchRange_input : (takeFetchRange s).input = s.input := rfl
@[simp] theorem takeFetchRange_output : (takeFetchRange s).output = s.output := rfl
@[simp] theorem takeFetchRange_portLog : (takeFetchRange s).portLog = s.portLog := rfl
@[simp] theorem takeFetchRange_freeCount : (takeFetchRange s).freeCount = s.freeCount + 1 := rfl

@[simp] theorem machineReset_mem : (machineReset s).mem = s.mem := rfl
@[simp] theorem machineReset_acc : (machineReset s).acc = 0 := rfl
@[simp] theorem machineReset_neg : (machineReset s).neg = false := rfl
@[simp] theorem machineReset_pc : (machineReset s).pc = 0 := rfl
@[simp] theorem machineReset_halted : (machineReset s).halted = false := rfl
@[simp] theorem machineReset_haltCause : (machineReset s).haltCause = .none := rfl
@[simp] theorem machineReset_run : (machineReset s).run = false := rfl
@[simp] theorem machineReset_phase : (machineReset s).phase = .idle := rfl
@[simp] theorem machineReset_ir : (machineReset s).ir = Config.freeIr s.freeCount := rfl
@[simp] theorem machineReset_input : (machineReset s).input = s.input.reset := rfl
@[simp] theorem machineReset_output : (machineReset s).output = s.output.reset := rfl
@[simp] theorem machineReset_portLog : (machineReset s).portLog = s.portLog ++ [.ioReset] := rfl
@[simp] theorem machineReset_freeCount : (machineReset s).freeCount = s.freeCount + 1 := rfl

@[simp] theorem latch_mem : (latch s).mem = s.mem := rfl
@[simp] theorem latch_acc : (latch s).acc = s.acc := rfl
@[simp] theorem latch_neg : (latch s).neg = s.neg := rfl
@[simp] theorem latch_pc : (latch s).pc = s.pc := rfl
@[simp] theorem latch_halted : (latch s).halted = s.halted := rfl
@[simp] theorem latch_haltCause : (latch s).haltCause = s.haltCause := rfl
@[simp] theorem latch_run : (latch s).run = s.run := rfl
@[simp] theorem latch_phase : (latch s).phase = .exec := rfl
@[simp] theorem latch_ir : (latch s).ir = fetchedWord s := rfl
@[simp] theorem latch_input : (latch s).input = s.input := rfl
@[simp] theorem latch_output : (latch s).output = s.output := rfl
@[simp] theorem latch_portLog : (latch s).portLog = s.portLog := rfl
@[simp] theorem latch_freeCount : (latch s).freeCount = s.freeCount := rfl

@[simp] theorem transferIn_mem (x : Word) : (transferIn x s).mem = s.mem := rfl
@[simp] theorem transferIn_acc (x : Word) : (transferIn x s).acc = s.acc := rfl
@[simp] theorem transferIn_neg (x : Word) : (transferIn x s).neg = s.neg := rfl
@[simp] theorem transferIn_pc (x : Word) : (transferIn x s).pc = s.pc := rfl
@[simp] theorem transferIn_halted (x : Word) : (transferIn x s).halted = s.halted := rfl
@[simp] theorem transferIn_haltCause (x : Word) : (transferIn x s).haltCause = s.haltCause := rfl
@[simp] theorem transferIn_run (x : Word) : (transferIn x s).run = s.run := rfl
@[simp] theorem transferIn_phase (x : Word) : (transferIn x s).phase = s.phase := rfl
@[simp] theorem transferIn_ir (x : Word) : (transferIn x s).ir = s.ir := rfl
@[simp] theorem transferIn_input (x : Word) : (transferIn x s).input = s.input.consume := rfl
@[simp] theorem transferIn_output (x : Word) : (transferIn x s).output = s.output := rfl
@[simp] theorem transferIn_portLog (x : Word) : (transferIn x s).portLog = s.portLog ++ [.input x] := rfl
@[simp] theorem transferIn_freeCount (x : Word) : (transferIn x s).freeCount = s.freeCount := rfl

@[simp] theorem transferOut_mem (v : Word) : (transferOut v s).mem = s.mem := rfl
@[simp] theorem transferOut_acc (v : Word) : (transferOut v s).acc = s.acc := rfl
@[simp] theorem transferOut_neg (v : Word) : (transferOut v s).neg = s.neg := rfl
@[simp] theorem transferOut_pc (v : Word) : (transferOut v s).pc = s.pc := rfl
@[simp] theorem transferOut_halted (v : Word) : (transferOut v s).halted = s.halted := rfl
@[simp] theorem transferOut_haltCause (v : Word) : (transferOut v s).haltCause = s.haltCause := rfl
@[simp] theorem transferOut_run (v : Word) : (transferOut v s).run = s.run := rfl
@[simp] theorem transferOut_phase (v : Word) : (transferOut v s).phase = s.phase := rfl
@[simp] theorem transferOut_ir (v : Word) : (transferOut v s).ir = s.ir := rfl
@[simp] theorem transferOut_input (v : Word) : (transferOut v s).input = s.input := rfl
@[simp] theorem transferOut_output (v : Word) : (transferOut v s).output = s.output.write v := rfl
@[simp] theorem transferOut_portLog (v : Word) : (transferOut v s).portLog = s.portLog ++ [.output v] := rfl
@[simp] theorem transferOut_freeCount (v : Word) : (transferOut v s).freeCount = s.freeCount := rfl

@[simp] theorem beginNextStep_mem : (beginNextStep s).mem = s.mem := by unfold beginNextStep; split <;> rfl
@[simp] theorem beginNextStep_acc : (beginNextStep s).acc = s.acc := by unfold beginNextStep; split <;> rfl
@[simp] theorem beginNextStep_neg : (beginNextStep s).neg = s.neg := by unfold beginNextStep; split <;> rfl
@[simp] theorem beginNextStep_pc : (beginNextStep s).pc = s.pc := by unfold beginNextStep; split <;> rfl
@[simp] theorem beginNextStep_halted : (beginNextStep s).halted = s.halted := by unfold beginNextStep; split <;> rfl
@[simp] theorem beginNextStep_haltCause : (beginNextStep s).haltCause = s.haltCause := by unfold beginNextStep; split <;> rfl
@[simp] theorem beginNextStep_run : (beginNextStep s).run = s.run := by unfold beginNextStep; split <;> rfl
@[simp] theorem beginNextStep_ir : (beginNextStep s).ir = s.ir := by unfold beginNextStep; split <;> rfl
@[simp] theorem beginNextStep_input : (beginNextStep s).input = s.input := by unfold beginNextStep; split <;> rfl
@[simp] theorem beginNextStep_output : (beginNextStep s).output = s.output := by unfold beginNextStep; split <;> rfl
@[simp] theorem beginNextStep_portLog : (beginNextStep s).portLog = s.portLog := by unfold beginNextStep; split <;> rfl
@[simp] theorem beginNextStep_freeCount : (beginNextStep s).freeCount = s.freeCount := by unfold beginNextStep; split <;> rfl
@[simp] theorem beginNextStep_phase :
    (beginNextStep s).phase = if s.run && !s.halted then .fetch else s.phase := by unfold beginNextStep; split <;> rfl

@[simp] theorem waitAt_mem (p : Phase) : (waitAt p s).mem = s.mem := rfl
@[simp] theorem waitAt_acc (p : Phase) : (waitAt p s).acc = s.acc := rfl
@[simp] theorem waitAt_neg (p : Phase) : (waitAt p s).neg = s.neg := rfl
@[simp] theorem waitAt_pc (p : Phase) : (waitAt p s).pc = s.pc := rfl
@[simp] theorem waitAt_halted (p : Phase) : (waitAt p s).halted = s.halted := rfl
@[simp] theorem waitAt_haltCause (p : Phase) : (waitAt p s).haltCause = s.haltCause := rfl
@[simp] theorem waitAt_run (p : Phase) : (waitAt p s).run = s.run := rfl
@[simp] theorem waitAt_phase (p : Phase) : (waitAt p s).phase = p := rfl
@[simp] theorem waitAt_ir (p : Phase) : (waitAt p s).ir = s.ir := rfl
@[simp] theorem waitAt_input (p : Phase) : (waitAt p s).input = s.input := rfl
@[simp] theorem waitAt_output (p : Phase) : (waitAt p s).output = s.output := rfl
@[simp] theorem waitAt_portLog (p : Phase) : (waitAt p s).portLog = s.portLog := rfl
@[simp] theorem waitAt_freeCount (p : Phase) : (waitAt p s).freeCount = s.freeCount := rfl

end Sys2Proof.Machine
end

