-- ==== Sys2Proof/Laws/Ops.lean ====
section
/-! SUPPORT. One lemma for each shared operation that says everything it can do, and one equation for each instruction:
what `exec` answers, in terms of the shared operations. -/

namespace Sys2Proof.Machine

theorem withCell_of_lt {a : Nat} (h : a < 100) (act : Nat → State) : withCell a act = .next (act a) :=
  if_pos h

/-- If an operand access answers a next state, the operand is a cell's address and the state is the action's. -/
theorem withCell_next {a : Nat} {act : Nat → State} {t : State} (h : withCell a act = .next t) :
    a < 100 ∧ t = act a := by
  unfold withCell effectiveAddress at h
  split at h
  · exact ⟨by assumption, (Host.Outcome.next.inj h).symm⟩
  · cases h

/-- An operand access stops only at an address that no cell has. -/
theorem withCell_fault {a : Nat} {act : Nat → State} {f : Fault} (h : withCell a act = .fault f) :
    100 ≤ a ∧ f = .noSuchCell a := by
  unfold withCell effectiveAddress at h
  split at h
  · cases h
  · exact ⟨Nat.le_of_not_lt (by assumption), (Host.Outcome.fault.inj h).symm⟩

theorem branchTarget_toNat (a : Nat) : (branchTarget a).toNat = a % 1000 := by
  have h := Nat.mod_lt a (by decide : 1000 > 0)
  simp only [branchTarget, Config.modulus, BitVec.toNat_ofNat]
  omega

/-- The end of a step leaves the architectural state, the ports and HALTED as the instruction made them. -/
theorem finishStep_eq (s : State) :
    finishStep s = { s with
      phase := .idle
      run := s.run && !s.halted
      ir := Config.freeIr s.freeCount
      freeCount := s.freeCount + 1 } := rfl

/-- An engine that is not halted goes on at the end of its step. -/
theorem finishStep_goesOn {s t : State} (hs : s.halted = false) (hh : t.halted = s.halted)
    (hc : t.haltCause = s.haltCause) (hr : t.run = s.run) : s.GoesOn (finishStep t) := by
  refine ⟨hh, hc, ?_, ?_⟩ <;> simp [hh, hr, hs]

theorem takeHalt_halts (c : HaltCause) (s : State) : (takeHalt c s).Halts c := by
  refine ⟨?_, ?_, ?_, ?_⟩ <;> simp

/-- Entering the halted state changes neither memory nor the ports. -/
theorem takeHalt_keeps (c : HaltCause) (s : State) : s.MemoryKept (takeHalt c s) ∧ s.PortsKept (takeHalt c s) :=
  ⟨fun _ => rfl, rfl, rfl, rfl⟩

theorem takeIllegal_halts (s : State) : (takeIllegal s).Halts .illegal := takeHalt_halts .illegal (advance s)

theorem takeFetchRange_halts (s : State) : (takeFetchRange s).Halts .fetchRange := takeHalt_halts .fetchRange s

/-- A commit at a clock edge answers a next state only from the step's, with the next step begun under RUN. -/
theorem commitEdge_next {o : Host.Outcome State Fault Refusal} {t : State} (h : commitEdge o = .next t) :
    ∃ u, o = .next u ∧ t = beginNextStep u := by
  cases o with
  | next u => exact ⟨u, rfl, (Host.Outcome.next.inj h).symm⟩
  | fault f => cases h
  | refused r => cases h

/-- Where the engine is not under RUN, nothing is begun at a step boundary. -/
theorem beginNextStep_of_not_run {s : State} (h : s.run = false) : beginNextStep s = s := by simp [beginNextStep, h]

/-- Machine reset keeps memory (R271). -/
theorem machineReset_keeps_memory (s : State) : s.MemoryKept (machineReset s) := fun _ => rfl

/-- A command not accepted is ignored (R41). -/
theorem hostCommand_of_not_accepted {c : HostCommand} {s : State} (h : acceptsCommand s = false) :
    hostCommand c s = s := by
  simp [hostCommand, h]

/-- A command's effect, by cases, when the engine accepts it. -/
theorem hostCommand_cases {c : HostCommand} {s : State} (h : acceptsCommand s = true) :
    (c = .memClear ∧ hostCommand c s = memClear s) ∨
    (∃ sel addr data, c = .write sel addr data ∧ hostCommand c s = hostWrite sel addr data s) ∨
    (c = .run ∧ hostCommand c s = beginRun s) ∨ (c = .step ∧ hostCommand c s = beginStep s) := by
  cases c <;> simp [hostCommand, h, applyCommand]

theorem exec_halt (x : Nat) (s : State) : exec (.halt x) s = .next (takeHalt .haltInstr (advance s)) := rfl

theorem exec_add {a : Nat} (h : a < 100) (s : State) :
    exec (.add a) s = .next (finishStep (advance (writeAcc (add1000 s.acc (Memory.read s.mem a)) s))) := by
  simp only [exec, execAdd, withCell_of_lt h]

theorem exec_sub {a : Nat} (h : a < 100) (s : State) :
    exec (.sub a) s = .next (finishStep (advance (writeNeg (sub1000 s.acc (Memory.read s.mem a)).2
      (writeAcc (sub1000 s.acc (Memory.read s.mem a)).1 s)))) := by
  simp only [exec, execSub, withCell_of_lt h]

theorem exec_sta {a : Nat} (h : a < 100) (s : State) :
    exec (.sta a) s = .next (finishStep (advance (writeCell a s.acc s))) := by
  simp only [exec, execSta, withCell_of_lt h]

theorem exec_lda {a : Nat} (h : a < 100) (s : State) :
    exec (.lda a) s = .next (finishStep (advance (writeAcc (norm (Memory.read s.mem a)) s))) := by
  simp only [exec, execLda, withCell_of_lt h]

theorem exec_bra (a : Nat) (s : State) : exec (.bra a) s = .next (finishStep (jump a s)) := rfl

theorem exec_brz (a : Nat) (s : State) :
    exec (.brz a) s = .next (finishStep (if s.acc = 0 then jump a s else advance s)) := rfl

theorem exec_brp (a : Nat) (s : State) :
    exec (.brp a) s = .next (finishStep (if s.neg then advance s else jump a s)) := rfl

theorem exec_illegal {i : Instr} (h : i.isIllegal = true) (s : State) : exec i s = .next (takeIllegal s) := by
  cases i <;> first | rfl | cases h

theorem exec_inp_offer {s : State} {x : Word} (h : s.input.offer = some x) :
    exec .inp s = .next (finishStep (advance (writeAcc (norm x) (transferIn x s)))) := by
  simp [exec, execInp, h]

theorem exec_inp_awaits {s : State} (h : s.input.offer = none) : exec .inp s = .fault .awaitsInput := by
  simp [exec, execInp, h]

theorem exec_out_ready {s : State} (h : s.output.ready = true) :
    exec .out s = .next (finishStep (advance (transferOut s.acc s))) := by
  simp [exec, execOut, h]

theorem exec_out_awaits {s : State} (h : s.output.ready = false) : exec .out s = .fault .awaitsOutput := by
  simp [exec, execOut, h]

/-- Everything that stops an instruction: an operand that is no cell's address, or a device that does not act (R281). -/
theorem exec_fault {i : Instr} {s : State} {f : Fault} (h : exec i s = .fault f) :
    (∃ a, 100 ≤ a ∧ (i = .add a ∨ i = .sub a ∨ i = .sta a ∨ i = .lda a) ∧ f = .noSuchCell a) ∨
    (i = .inp ∧ s.input.offer = none ∧ f = .awaitsInput) ∨ (i = .out ∧ s.output.ready = false ∧ f = .awaitsOutput) := by
  cases i with
  | add a =>
    simp only [exec, execAdd] at h
    exact .inl ⟨a, (withCell_fault h).1, .inl rfl, (withCell_fault h).2⟩
  | sub a =>
    simp only [exec, execSub] at h
    exact .inl ⟨a, (withCell_fault h).1, .inr (.inl rfl), (withCell_fault h).2⟩
  | sta a =>
    simp only [exec, execSta] at h
    exact .inl ⟨a, (withCell_fault h).1, .inr (.inr (.inl rfl)), (withCell_fault h).2⟩
  | lda a =>
    simp only [exec, execLda] at h
    exact .inl ⟨a, (withCell_fault h).1, .inr (.inr (.inr rfl)), (withCell_fault h).2⟩
  | inp =>
    cases ho : s.input.offer with
    | none => rw [exec_inp_awaits ho] at h; cases h; exact .inr (.inl ⟨rfl, rfl, rfl⟩)
    | some x => rw [exec_inp_offer ho] at h; cases h
  | out =>
    cases ho : s.output.ready with
    | false => rw [exec_out_awaits ho] at h; cases h; exact .inr (.inr ⟨rfl, rfl, rfl⟩)
    | true => rw [exec_out_ready ho] at h; cases h
  | halt x => cases h
  | illegalOpcode4 x => cases h
  | bra a => cases h
  | brz a => cases h
  | brp a => cases h
  | illegal900 => cases h
  | illegal903 x => cases h

/-- Everything an instruction can do when it answers a next state: halt, or commit its own effect (R120,
R125). -/
theorem exec_cases {i : Instr} {s t : State} (h : exec i s = .next t) :
    (∃ c, t = takeHalt c (advance s) ∧ ((∃ x, i = .halt x ∧ c = .haltInstr) ∨ (i.isIllegal = true ∧ c = .illegal))) ∨
    (∃ a, a < 100 ∧ i = .add a ∧ t = finishStep (advance (writeAcc (add1000 s.acc (Memory.read s.mem a)) s))) ∨
    (∃ a, a < 100 ∧ i = .sub a ∧ t = finishStep (advance (writeNeg (sub1000 s.acc (Memory.read s.mem a)).2
      (writeAcc (sub1000 s.acc (Memory.read s.mem a)).1 s)))) ∨
    (∃ a, a < 100 ∧ i = .sta a ∧ t = finishStep (advance (writeCell a s.acc s))) ∨
    (∃ a, a < 100 ∧ i = .lda a ∧ t = finishStep (advance (writeAcc (norm (Memory.read s.mem a)) s))) ∨
    (∃ a, (i = .bra a ∨ (i = .brz a ∧ s.acc = 0) ∨ (i = .brp a ∧ s.neg = false)) ∧ t = finishStep (jump a s)) ∨
    (∃ a, ((i = .brz a ∧ s.acc ≠ 0) ∨ (i = .brp a ∧ s.neg = true)) ∧ t = finishStep (advance s)) ∨
    (i = .inp ∧ ∃ x, s.input.offer = some x ∧ t = finishStep (advance (writeAcc (norm x) (transferIn x s)))) ∨
    (i = .out ∧ s.output.ready = true ∧ t = finishStep (advance (transferOut s.acc s))) := by
  cases i with
  | halt x => cases h; exact .inl ⟨_, rfl, .inl ⟨x, rfl, rfl⟩⟩
  | illegalOpcode4 x => cases h; exact .inl ⟨_, rfl, .inr ⟨rfl, rfl⟩⟩
  | illegal900 => cases h; exact .inl ⟨_, rfl, .inr ⟨rfl, rfl⟩⟩
  | illegal903 x => cases h; exact .inl ⟨_, rfl, .inr ⟨rfl, rfl⟩⟩
  | add a =>
    simp only [exec, execAdd] at h
    obtain ⟨ha, rfl⟩ := withCell_next h
    exact .inr (.inl ⟨a, ha, rfl, rfl⟩)
  | sub a =>
    simp only [exec, execSub] at h
    obtain ⟨ha, rfl⟩ := withCell_next h
    exact .inr (.inr (.inl ⟨a, ha, rfl, rfl⟩))
  | sta a =>
    simp only [exec, execSta] at h
    obtain ⟨ha, rfl⟩ := withCell_next h
    exact .inr (.inr (.inr (.inl ⟨a, ha, rfl, rfl⟩)))
  | lda a =>
    simp only [exec, execLda] at h
    obtain ⟨ha, rfl⟩ := withCell_next h
    exact .inr (.inr (.inr (.inr (.inl ⟨a, ha, rfl, rfl⟩))))
  | bra a =>
    cases h
    exact .inr (.inr (.inr (.inr (.inr (.inl ⟨a, .inl rfl, rfl⟩)))))
  | brz a =>
    rw [exec_brz] at h
    by_cases hz : s.acc = 0
    · rw [if_pos hz] at h
      cases h
      exact .inr (.inr (.inr (.inr (.inr (.inl ⟨a, .inr (.inl ⟨rfl, hz⟩), rfl⟩)))))
    · rw [if_neg hz] at h
      cases h
      exact .inr (.inr (.inr (.inr (.inr (.inr (.inl ⟨a, .inl ⟨rfl, hz⟩, rfl⟩))))))
  | brp a =>
    rw [exec_brp] at h
    cases hn : s.neg with
    | true =>
      rw [hn] at h
      cases h
      exact .inr (.inr (.inr (.inr (.inr (.inr (.inl ⟨a, .inr ⟨rfl, rfl⟩, rfl⟩))))))
    | false =>
      rw [hn] at h
      cases h
      exact .inr (.inr (.inr (.inr (.inr (.inl ⟨a, .inr (.inr ⟨rfl, rfl⟩), rfl⟩)))))
  | inp =>
    cases ho : s.input.offer with
    | none =>
      rw [exec_inp_awaits ho] at h
      cases h
    | some x =>
      rw [exec_inp_offer ho] at h
      cases h
      simp
  | out =>
    cases ho : s.output.ready with
    | false =>
      rw [exec_out_awaits ho] at h
      cases h
    | true =>
      rw [exec_out_ready ho] at h
      cases h
      simp

end Sys2Proof.Machine
end

