-- ==== Sys2Proof/Laws/PerInstr.lean ====
section
/-! SUPPORT. Family EncodesToCell: a well-formed instruction's encoding is a cell value, opcode times 100 plus operand
(R90, R94, R100). -/

namespace Sys2Proof.Laws.EncodesToCell

/-- The encoding of a well-formed instruction is one of the values 0..999, which a cell can hold. -/
def Statement (i : Instr) : Prop := i.wellFormed = true → (encode i).toNat ≤ 999

theorem cellOf_toNat {op opd : Nat} (hop : op ≤ 9) (hopd : opd < 100) : (cellOf op opd).toNat = 100 * op + opd := by
  simp only [cellOf, BitVec.toNat_ofNat]
  omega

theorem cellOf_le {op opd : Nat} (hop : op ≤ 9) (h : operandInRange opd = true) : (cellOf op opd).toNat ≤ 999 := by
  have hopd : opd < 100 := of_decide_eq_true h
  rw [cellOf_toNat hop hopd]
  omega

theorem halt (x : Nat) : Statement (.halt x) := cellOf_le (by decide)
theorem add (a : Nat) : Statement (.add a) := cellOf_le (by decide)
theorem sub (a : Nat) : Statement (.sub a) := cellOf_le (by decide)
theorem sta (a : Nat) : Statement (.sta a) := cellOf_le (by decide)
theorem illegalOpcode4 (x : Nat) : Statement (.illegalOpcode4 x) := cellOf_le (by decide)
theorem lda (a : Nat) : Statement (.lda a) := cellOf_le (by decide)
theorem bra (a : Nat) : Statement (.bra a) := cellOf_le (by decide)
theorem brz (a : Nat) : Statement (.brz a) := cellOf_le (by decide)
theorem brp (a : Nat) : Statement (.brp a) := cellOf_le (by decide)
theorem illegal900 : Statement .illegal900 := fun _ => by decide
theorem inp : Statement .inp := fun _ => by decide
theorem out : Statement .out := fun _ => by decide
theorem illegal903 (x : Nat) : Statement (.illegal903 x) := fun h =>
  cellOf_le (by decide) (by simp [Instr.wellFormed] at h; exact h.2)

end Sys2Proof.Laws.EncodesToCell
end

