-- ==== Sys2Proof/Tests/Slice0.lean ====
section
/-! SUPPORT. Tests: expected values from spec/95_test_vectors.md, whose vector is named at each, and from the rules'
own examples; and for each statement with hypotheses a concrete instance that meets them. -/

namespace Sys2Proof.Tests

open Sys2Proof Sys2Proof.Machine

/-! ### Helpers -/

/-- The reset state with these cells, registers and scripted input. -/
def start (mem : Memory) (pc : Word := 0) (acc : Word := 0) (neg : Bool := false) (given : List Word := []) : State :=
  { State.reset with mem := mem, pc := pc, acc := acc, neg := neg, input := .script given }

/-- What is seen of an outcome, when it is a next state. -/
def seen {α : Type} (o : Host.Outcome State Fault Refusal) (view : State → α) : Option α :=
  match o with
  | .next t => some (view t)
  | .fault _ => none
  | .refused _ => none

/-- PC, ACC, NEG, HALTED and the cause after one step. -/
def registers (s : State) : Option (Word × Word × Bool × Bool × HaltCause) :=
  seen (step s) fun t => (t.pc, t.acc, t.neg, t.halted, t.haltCause)

/-! ### WellFormed refuses -/

theorem test_wf_halt : (Instr.halt 100).wellFormed = false := by decide
theorem test_wf_add : (Instr.add 100).wellFormed = false := by decide
theorem test_wf_sub : (Instr.sub 100).wellFormed = false := by decide
theorem test_wf_sta : (Instr.sta 100).wellFormed = false := by decide
theorem test_wf_illegalOpcode4 : (Instr.illegalOpcode4 100).wellFormed = false := by decide
theorem test_wf_lda : (Instr.lda 100).wellFormed = false := by decide
theorem test_wf_bra : (Instr.bra 100).wellFormed = false := by decide
theorem test_wf_brz : (Instr.brz 100).wellFormed = false := by decide
theorem test_wf_brp : (Instr.brp 100).wellFormed = false := by decide
theorem test_wf_illegal903_low : (Instr.illegal903 2).wellFormed = false := by decide
theorem test_wf_illegal903_high : (Instr.illegal903 100).wellFormed = false := by decide

/-! ### Decoding, from words in bits (E1 to E11, and the ranges of R92) -/

theorem test_decode_halt : decode 0b0000000000#10 = .ok (.halt 0) ∧ decode 0b0001100011#10 = .ok (.halt 99) := by decide
theorem test_decode_add : decode 0b0001100100#10 = .ok (.add 0) ∧ decode 0b0011000111#10 = .ok (.add 99) := by decide
theorem test_decode_sub : decode 0b0011001000#10 = .ok (.sub 0) ∧ decode 0b0100101011#10 = .ok (.sub 99) := by decide
theorem test_decode_sta : decode 0b0100101100#10 = .ok (.sta 0) ∧ decode 0b0110001111#10 = .ok (.sta 99) := by decide
theorem test_decode_illegalOpcode4 :
    decode 0b0110010000#10 = .ok (.illegalOpcode4 0) ∧ decode 0b0111110011#10 = .ok (.illegalOpcode4 99) := by decide
theorem test_decode_lda : decode 0b1000001000#10 = .ok (.lda 20) ∧ decode 0b1001010111#10 = .ok (.lda 99) := by decide
theorem test_decode_bra : decode 0b1001011000#10 = .ok (.bra 0) ∧ decode 0b1010111011#10 = .ok (.bra 99) := by decide
theorem test_decode_brz : decode 0b1011000101#10 = .ok (.brz 9) ∧ decode 0b1100011111#10 = .ok (.brz 99) := by decide
theorem test_decode_brp : decode 0b1100100000#10 = .ok (.brp 0) ∧ decode 0b1110000011#10 = .ok (.brp 99) := by decide
theorem test_decode_illegal900 : decode 0b1110000100#10 = .ok .illegal900 := by decide
theorem test_decode_inp : decode 0b1110000101#10 = .ok .inp := by decide
theorem test_decode_out : decode 0b1110000110#10 = .ok .out := by decide
theorem test_decode_illegal903 :
    decode 0b1110000111#10 = .ok (.illegal903 3) ∧ decode 0b1111100111#10 = .ok (.illegal903 99) := by decide
theorem test_decode_opcodeTen :
    decode 0b1111101000#10 = .error (.opcodeTen 0) ∧ decode 0b1111111111#10 = .error (.opcodeTen 23) := by decide
theorem test_decodeTableWord :
    decodeTableWord 16 520 = some (.lda 20) ∧ decodeTableWord 16 1000 = none ∧ decodeTableWord 16 1544 = none := by decide

/-! ### The arithmetic (A1 to A15, S5) -/

theorem test_add1000 :
    add1000 999 1 = 0 ∧ add1000 500 500 = 0 ∧ add1000 999 999 = 998 ∧ add1000 0 0 = 0 ∧ add1000 123 877 = 0 ∧
    add1000 1 998 = 999 := by decide
theorem test_sub1000_borrow :
    sub1000 0 1 = (999, true) ∧ sub1000 0 999 = (1, true) ∧ sub1000 3 5 = (998, true) ∧ sub1000 1 999 = (2, true) ∧
    sub1000 998 999 = (999, true) := by decide
theorem test_sub1000_plain :
    sub1000 5 5 = (0, false) ∧ sub1000 999 0 = (999, false) ∧ sub1000 0 0 = (0, false) ∧ sub1000 999 999 = (0, false) := by
  decide
theorem test_bits :
    add1000Bits 999 999 = 998 ∧ add1000Bits 500 500 = 0 ∧ sub1000Bits 0 999 = (1, true) ∧ sub1000Bits 998 999 = (999, true) ∧
    sub1000Bits 999 0 = (999, false) := by decide
theorem test_norm : Machine.norm 1005 = 5 ∧ Machine.norm 999 = 999 ∧ Machine.norm 1023 = 23 ∧ inc 999 = 0 ∧ inc 99 = 100 := by decide

/-! ### One step of each instruction -/

/-- E12 and E14. -/
theorem test_step_halt :
    registers (start [] 0 7 true) = some (1, 7, true, true, .haltInstr) ∧
    registers (start [(0, 99)] 0 7 true) = some (1, 7, true, true, .haltInstr) := by decide

/-- H2: HALT at 99. -/
theorem test_step_halt_at_99 : registers (start [] 99) = some (100, 0, false, true, .haltInstr) := by decide

/-- A16. -/
theorem test_step_add : registers (start [(0, 111), (11, 1)] 0 999 true) = some (1, 0, true, false, .none) := by decide

/-- A19: its own cell. -/
theorem test_step_add_own_cell : registers (start [(5, 105)] 5 1) = some (6, 106, false, false, .none) := by decide

/-- A17. -/
theorem test_step_sub_borrow : registers (start [(0, 211), (11, 5)] 0 3) = some (1, 998, true, false, .none) := by decide

/-- A18: a SUB that does not underflow clears NEG. -/
theorem test_step_sub_clears : registers (start [(0, 211), (11, 5)] 0 5 true) = some (1, 0, false, false, .none) := by
  decide

/-- T3: the store overwrites the instruction just executed. -/
theorem test_step_sta_own_cell :
    seen (step (start [(7, 307)] 7 42)) (fun t => (t.mem, t.pc, t.acc)) = some ([(7, 42)], 8, 42) := by decide

/-- T5: storing 0. -/
theorem test_step_sta_zero : seen (step (start [(0, 350), (50, 9)])) (fun t => (t.mem, t.pc)) = some ([(0, 350)], 1) := by
  decide

/-- E15 and E16. -/
theorem test_step_illegalOpcode4 :
    registers (start [(0, 400)] 0 7 true) = some (1, 7, true, true, .illegal) ∧
    registers (start [(0, 499)] 0 7 true) = some (1, 7, true, true, .illegal) := by decide

/-- S8 (T1). -/
theorem test_step_lda : registers (start [(0, 520), (20, 709)]) = some (1, 709, false, false, .none) := by decide

/-- T2. -/
theorem test_step_lda_keeps_neg : registers (start [(0, 599), (99, 777)] 0 0 true) = some (1, 777, true, false, .none) := by
  decide

/-- B1. -/
theorem test_step_bra : registers (start [(4, 601)] 4) = some (1, 0, false, false, .none) := by decide

/-- B2. -/
theorem test_step_bra_99 : registers (start [(0, 699)]) = some (99, 0, false, false, .none) := by decide

/-- B3, with NEG = 1, which BRZ does not read. -/
theorem test_step_brz_taken : registers (start [(0, 742)] 0 0 true) = some (42, 0, true, false, .none) := by decide

/-- B4. -/
theorem test_step_brz_not_taken : registers (start [(0, 742)] 0 1) = some (1, 1, false, false, .none) := by decide

/-- B5. -/
theorem test_step_brp_taken : registers (start [(0, 842)]) = some (42, 0, false, false, .none) := by decide

/-- B6. -/
theorem test_step_brp_not_taken : registers (start [(0, 842)] 0 0 true) = some (1, 0, true, false, .none) := by decide

/-- E17 and I9: no transfer, though a value is offered. -/
theorem test_step_illegal900 :
    registers (start [(0, 900)] 0 5 false [45]) = some (1, 5, false, true, .illegal) ∧
    seen (step (start [(0, 900)] 0 5 false [45])) (fun t => (t.input, t.portLog)) = some (.script [45], [.ioReset]) := by
  decide

/-- I2 and I3. -/
theorem test_step_inp :
    registers (start [(0, 901)] 0 0 true [1005]) = some (1, 5, true, false, .none) ∧
    registers (start [(0, 901)] 0 0 true [1023]) = some (1, 23, true, false, .none) := by decide

/-- I1: one value is consumed. I7: without one the step never commits, and no later state exists. -/
theorem test_step_inp_device :
    seen (step (start [(0, 901)] 0 0 false [45, 7])) (fun t => (t.input, t.portLog)) =
      some (.script [7], [.ioReset, .input 45]) ∧
    step (start [(0, 901)]) = .fault .awaitsInput := ⟨by decide, rfl⟩

/-- S9 (I5). -/
theorem test_step_out :
    registers (start [(0, 902)] 0 300) = some (1, 300, false, false, .none) ∧
    seen (step (start [(0, 902)] 0 300)) (fun t => (t.output, t.portLog)) =
      some (.buffered [300], [.ioReset, .output 300]) := by decide

/-- An interactive output may delay (R214, R281 c): the step is not enabled. -/
theorem test_step_out_waits :
    step { start [(0, 902)] 0 300 with output := .interactive [] false } = .fault .awaitsOutput := rfl

/-- E18 and E20. -/
theorem test_step_illegal903 :
    registers (start [(0, 903)] 0 7 true) = some (1, 7, true, true, .illegal) ∧
    registers (start [(0, 999)] 0 7 true) = some (1, 7, true, true, .illegal) := by decide

/-! ### Faults, the halted state, the host -/

/-- H5 and H9. -/
theorem test_step_fetchRange :
    registers (start [] 100) = some (100, 0, false, true, .fetchRange) ∧
    registers (start [] 999) = some (999, 0, false, true, .fetchRange) := by decide

/-- H4: a step while halted. -/
theorem test_step_halted :
    step { start [(1, 901)] 1 with halted := true, haltCause := .haltInstr } =
      .next { start [(1, 901)] 1 with halted := true, haltCause := .haltInstr } := by rfl

/-- C1, C2 and C3. -/
theorem test_hostWrite_registers :
    (hostCommand (.write .pc 0 1005) (start [])).pc = 5 ∧ (hostCommand (.write .acc 0 1023) (start [] 0 0 true)).acc = 23 ∧
    (hostCommand (.write .acc 0 1023) (start [] 0 0 true)).neg = true ∧
    (hostCommand (.write .neg 0 0b0000000011) (start [])).neg = true := by decide

/-- C4 and S1. -/
theorem test_hostWrite_memory :
    (hostCommand (.write .mem 100 5) (start [])).mem = [] ∧ (hostCommand (.write .mem 99 1005) (start [])).mem = [(99, 5)] ∧
    (hostCommand (.write .mem 7 1000) (start [(7, 3)])).mem = [] := by decide

/-- C5. -/
theorem test_hostRead : hostRead 100 (start [(99, 777)]) = 0 ∧ hostRead 99 (start [(99, 777)]) = 777 := by decide

/-- C7: reset leaves memory. -/
theorem test_machineReset :
    (machineReset (start [(3, 4)] 9 8 true)).mem = [(3, 4)] ∧ (machineReset (start [(3, 4)] 9 8 true)).pc = 0 ∧
    (machineReset (start [(3, 4)] 9 8 true)).acc = 0 ∧ (machineReset (start [(3, 4)] 9 8 true)).neg = false := by decide

/-- C8. -/
theorem test_memClear : (hostCommand .memClear (start [(3, 4)] 9 8 true)).mem = [] := by decide

/-- C9: `step` and `run` at the same edge: only `run` acts. -/
theorem test_runBeforeStep :
    seen (clockEdge { HostPins.quiet with run := true, step := true } (start [])) (fun t => (t.run, t.phase)) =
      some (true, .fetch) := by decide

/-- C11 and C13: ignored under RUN. -/
theorem test_ignoredUnderRun :
    (hostCommand .memClear { start [(3, 4)] with run := true }).mem = [(3, 4)] ∧
    (hostCommand .step { start [] with run := true }).phase = .idle := by decide

/-- I8: `rst` in WAIT_IN with a value on offer: it is not consumed. -/
theorem test_resetDuringWait :
    seen (clockEdge { HostPins.quiet with rst := true } { start [(0, 901)] 0 0 false [45] with phase := .waitIn })
      (fun t => (t.input, t.acc, t.phase)) = some (.script [45], 0, .idle) := by decide

/-- R132, R134: under RUN the commit begins the next step at once; at the halt the engine is idle. -/
theorem test_edge_underRun :
    seen (clockEdge HostPins.quiet { start [(0, 520)] with run := true, phase := .exec, ir := 520 })
      (fun t => (t.phase, t.run)) = some (.fetch, true) ∧
    seen (clockEdge HostPins.quiet { start [] with run := true, phase := .exec, ir := 0 })
      (fun t => (t.phase, t.run, t.halted)) = some (.idle, false, true) := by decide

/-- R34: at a step boundary PHASE is IDLE, RUN kept. -/
theorem test_step_boundary :
    seen (step { start [(0, 520)] with run := true, phase := .fetch }) (fun t => (t.phase, t.run)) = some (.idle, true) := by
  decide

/-- R277, with the values of S8. -/
theorem test_loadProgram : (loadProgram [520, 0, 1005] (start [(2, 9), (20, 709)])).mem = [(0, 520), (2, 5), (20, 709)] := by
  decide

/-- S6: the chained input, and again after its reset. -/
theorem test_chainedInput :
    (InputDevice.chained [2, 45, 100] 0 (.constant 23)).reads 5 = [2, 45, 100, 23, 23] ∧
    ((InputDevice.chained [2, 45, 100] 0 (.constant 23)).consume.reset).reads 3 = [2, 45, 100] := by decide

/-- S7: the buffered output. -/
theorem test_bufferedOutput :
    (((OutputDevice.buffered []).write 2).write 34).snapshot = [2, 34] ∧
    ((((OutputDevice.buffered []).write 2).write 34).write 999).snapshot = [2, 34, 999] := by decide

/-- R221: the interactive input presents only 0..999. -/
theorem test_interactiveInput :
    (InputDevice.interactive [1005, 999, 3]).reads 2 = [999, 3] ∧ (InputDevice.interactive [1000]).offer = none := by decide

/-- The word placed is fetched and executed (S8's LDA 20, here on a cleared cell). -/
theorem test_withFetchWord :
    registers (State.reset.withFetchWord 16 520) = some (1, 0, false, false, .none) ∧
    registers ((start [(1, 901)] 999 3).withFetchWord 16 399) = some (1, 3, false, false, .none) := by decide

/-- 1000..1023 placed where the fetch reads is the illegal-instruction fault (R96 c). -/
theorem test_step_opcodeTen : registers (State.reset.withFetchWord 16 1000) = some (1, 0, false, true, .illegal) := by decide

/-- The model's own stop, on an ill-formed operand (log 10). -/
theorem test_exec_noSuchCell : exec (.add 100) (start []) = .fault (.noSuchCell 100) := by rfl

/-! ### Instances of the statements' hypotheses -/

/-- A state within the invariant: NEG = 1, ACC at its end, a cell at 99. -/
def busyState : State := start [(0, 520), (99, 999)] 99 999 true [45]

/-- A state in WAIT_IN, as INP at 0 leaves it. -/
def waitingIn : State := { start [(0, 901)] with phase := .waitIn, ir := 901 }

/-- A state in EXEC with this word latched from cell 0. -/
def latched (v : Word) : State := { start [(0, v)] 0 7 with phase := .exec, ir := v }

/-- The engine halted by HALT. -/
def haltedState : State := { start [] 1 with halted := true, haltCause := .haltInstr }

theorem busyState_inRange : busyState.halted = false ∧ busyState.InRange := by decide
theorem busyState_inv : busyState.Inv :=
  { inRange := by decide, haltConsistent := by decide, phaseConsistent := trivial }
theorem waitingIn_inv : waitingIn.Inv :=
  { inRange := by decide, haltConsistent := by decide,
    phaseConsistent := show waitingIn.Latched ∧ decode waitingIn.ir = .ok .inp by decide }

theorem witness_DecodeInvertsEncode :
    (Instr.lda 99).wellFormed = true ∧ (Instr.illegal903 3).wellFormed = true ∧ (Instr.illegal903 99).wellFormed = true := by
  decide
theorem witness_EncodeInvertsDecode :
    decode 999#10 = .ok (.illegal903 99) ∧ (999#10).toNat ≤ 999 ∧ 1000 ≤ (1000#10).toNat ∧ 1000 ≤ (1023#10).toNat := by decide
theorem witness_ThresholdDecoderIsDivMod :
    (999#10).toNat ≤ 999 ∧ opcodeOf 999#10 = 9 ∧ opcodeOf 1000#10 = 10 ∧ operandOf 1023#10 = 23 := by decide
theorem witness_TableRowsPartitionCellValues : (900#10).toNat ≤ 999 ∧ (999#10).toNat ≤ 999 := by decide
theorem witness_Opcode9ComparesWholeOperand :
    opcodeOf 900#10 = 9 ∧ opcodeOf 903#10 = 9 ∧ opcodeOf 999#10 = 9 ∧ (903#10).toNat ≠ 901 ∧ (903#10).toNat ≠ 902 := by decide
theorem witness_AdderIsSumModulo1000 : Word.IsCell 999#10 ∧ Word.IsCell 1#10 ∧ Word.IsCell 0#10 := by decide
theorem witness_SubtractorGivesDifferenceAndBorrow :
    Word.IsCell 0#10 ∧ Word.IsCell 999#10 ∧ (0#10).toNat < (999#10).toNat ∧ (999#10).toNat ≤ (999#10).toNat := by decide
theorem witness_BitLevelAluAgrees : Word.IsCell 998#10 ∧ Word.IsCell 999#10 := by decide
theorem witness_IncrementWrapsModulo1000 :
    (∀ a, Instr.lda 99 ≠ .bra a ∧ Instr.lda 99 ≠ .brz a ∧ Instr.lda 99 ≠ .brp a) ∧ busyState.pc = 99#10 ∧
    ∃ t, exec (.lda 99) busyState = .next t := ⟨by intro a; simp, rfl, _, rfl⟩
theorem witness_AddCompletesWithSum : 0 < 100 ∧ 99 < 100 ∧ busyState.halted = false ∧ busyState.InRange := by decide
theorem witness_SubCompletesWithDifference :
    99 < 100 ∧ busyState.halted = false ∧ busyState.InRange ∧ (start [(99, 1)]).InRange ∧
    (start [(99, 1)]).acc.toNat < (Memory.read (start [(99, 1)]).mem (effectiveAddress 99)).toNat := by decide
theorem witness_LdaCompletesWithCell : 99 < 100 ∧ busyState.halted = false ∧ busyState.InRange := by decide
theorem witness_StaCompletesStoringAcc :
    99 < 100 ∧ busyState.halted = false ∧ busyState.InRange ∧ 98 ≠ effectiveAddress 99 := by decide
theorem witness_BraCompletesAtTarget : 99 < 100 ∧ busyState.halted = false := by decide
theorem witness_BrzCompletesOnAccumulator :
    99 < 100 ∧ busyState.halted = false ∧ busyState.acc.toNat ≠ 0 ∧ (start []).halted = false ∧ (start []).acc.toNat = 0 := by
  decide
theorem witness_BrpCompletesOnNegativeFlag :
    99 < 100 ∧ busyState.halted = false ∧ busyState.neg = true ∧ (start []).halted = false ∧ (start []).neg = false := by decide
theorem witness_InpCompletesWithInputValue :
    busyState.halted = false ∧ busyState.input.offer = some 45 ∧
    (start [] 0 0 false [1023]).input.offer = some 1023 := by decide
theorem witness_OutCompletesWithTransfer : busyState.halted = false ∧ busyState.output.ready = true := by decide
theorem witness_InpWaitsWithoutInput :
    (latched 901).input.offer = none ∧ (InputDevice.script [45]).offer = some 45 ∧ HostPins.quiet.rst = false ∧
    (latched 901).phase = .exec ∧ decode (latched 901).ir = .ok .inp ∧ waitingIn.input.offer = none ∧
    waitingIn.phase = .waitIn := by decide
theorem witness_OutWaitsWithoutReady :
    let s := { latched 902 with output := .interactive [] false }
    s.output.ready = false ∧ (OutputDevice.buffered []).ready = true ∧ s.phase = .exec ∧ decode s.ir = .ok .out ∧
    ({ s with phase := .waitOut } : State).phase = .waitOut := by decide
theorem witness_IllegalRowsTakeTheFault :
    (Instr.illegalOpcode4 0).isIllegal = true ∧ Instr.illegal900.isIllegal = true ∧ (Instr.illegal903 99).isIllegal = true := by
  decide
theorem witness_IllegalEncodingsAreExactlyTheThreeRanges :
    (latched 400).halted = false ∧ (latched 400).phase = .exec ∧ isIllegalWord (latched 400).ir = true ∧
    isIllegalWord (latched 1023).ir = true ∧ isIllegalWord (latched 399).ir = false ∧ isIllegalWord (latched 902).ir = false ∧
    ∃ t, step (latched 399) = .next t := ⟨by decide, by decide, by decide, by decide, by decide, by decide, _, rfl⟩
theorem witness_OnlyTheStoredCellChanges :
    (∃ t, exec (.sta 99) busyState = .next t) ∧ storedCell (.sta 99) ≠ some 98 ∧ storedCell (.add 99) ≠ some 99 :=
  ⟨⟨_, rfl⟩, by decide, by decide⟩
theorem witness_OperandOutsideMemoryStops :
    100 ≤ 100 ∧ Instr.sta 100 ∈ [Instr.add 100, .sub 100, .sta 100, .lda 100] ∧ decode 399#10 = .ok (.sta 99) := by decide
theorem witness_ZeroAfterSubMeansNoBorrow :
    busyState.InRange ∧ (∃ t, exec (.sub 99) busyState = .next t ∧ t.acc = 0) ∧ (start [(99, 1)]).InRange ∧
    ∃ t, exec (.sub 99) (start [(99, 1)]) = .next t ∧ t.neg = true :=
  ⟨by decide, ⟨_, rfl, by decide⟩, by decide, _, rfl, by decide⟩
theorem witness_SubThenBranchCompares :
    99 < 100 ∧ 0 < 100 ∧ busyState.halted = false ∧ busyState.InRange ∧
    busyState.acc = Memory.read busyState.mem 99 := by decide
theorem witness_OnlyIoDependsOnDevices :
    (Instr.add 99).isIo = false ∧ ∃ t, exec (.add 99) busyState = .next t := ⟨rfl, _, rfl⟩
theorem witness_StepRunsTheFetchedInstruction :
    busyState.AtStepStart ∧ busyState.pc.toNat < 100 ∧
    decode (Memory.read busyState.mem busyState.pc.toNat) = .ok (.illegal903 99) := by decide
theorem witness_FetchRangeFaultKeepsPc :
    (start [] 100).AtStepStart ∧ 100 ≤ (start [] 100).pc.toNat ∧ 100 ≤ (start [] 999).pc.toNat := by decide
theorem witness_StepWhileHaltedIsNoOp : haltedState.halted = true := by decide
theorem witness_FaultsArePrecise :
    (start [(0, 400)]).halted = false ∧
    (∃ t, step (start [(0, 400)]) = .next t ∧ t.EndedInFault ∧ t.haltCause = .illegal) ∧
    ∃ t, step (start [] 100) = .next t ∧ t.EndedInFault ∧ t.haltCause = .fetchRange :=
  ⟨rfl, ⟨_, rfl, by decide, rfl⟩, _, rfl, by decide, rfl⟩
theorem witness_EveryEnabledStepAnswersNext :
    (start [(0, 901)]).AwaitsInput ∧ waitingIn.AwaitsInput ∧
    ({ start [(0, 902)] with output := .interactive [] false } : State).AwaitsOutput ∧
    ¬ (start [(0, 901)] 0 0 false [45]).AwaitsInput ∧ ¬ (start [(0, 901)] 0 0 false [45]).AwaitsOutput := by
  refine ⟨⟨⟨rfl, rfl, rfl⟩, rfl⟩, ⟨⟨rfl, rfl⟩, rfl⟩, ⟨⟨rfl, rfl, rfl⟩, rfl⟩, ?_, ?_⟩
  · exact fun h => absurd h.2 (by decide)
  · exact fun h => absurd h.2 (by decide)
theorem witness_StepClearsRunExactlyAtHalt :
    (start []).halted = false ∧ (∃ t, step { start [] with run := true, phase := .fetch } = .next t ∧ t.halted = true) ∧
    ∃ t, step busyState = .next t := ⟨rfl, ⟨_, rfl, rfl⟩, _, rfl⟩
theorem witness_StoreIsSeenByNextFetch :
    3 < 100 ∧ (start [] 1 902).InRange ∧ decode (start [] 1 902).acc = .ok .out ∧
    ∃ t, exec (.sta 3) (start [] 1 902) = .next t ∧ t.halted = false := ⟨by decide, by decide, by decide, _, rfl, rfl⟩
theorem witness_StepsKeepPcAtMost100 :
    busyState.Inv ∧ busyState.pc.toNat ≤ 100 ∧ ∃ t, step busyState = .next t ∧ t.pc.toNat = 100 :=
  ⟨busyState_inv, by decide, _, rfl, by decide⟩
/-- BRA to its own cell, one step: as it was, but for IR (R191). -/
theorem braLoop_step {s : State} (hm : s.mem = [(0, 600)]) (hp : s.pc = 0) (hh : s.halted = false) (hi : s.phase = .idle) :
    ∃ t, step s = .next t ∧ t.mem = [(0, 600)] ∧ t.pc = 0 ∧ t.halted = false ∧ t.phase = .idle := by
  have hd : decode (fetchedWord s) = .ok (.bra 0) := by rw [fetchedWord, hm, hp]; rfl
  have hf : fetchable s = true := by rw [fetchable, hp]; rfl
  exact ⟨finishStep (jump 0 (latch s)), by simp [step, executeOne, hh, hi, fetchAndExecute, hf, executeLatched, hd, exec_bra],
    by simpa using hm, rfl, by simpa using hh, rfl⟩

/-- H8's loop, here at 0: it runs forever. -/
theorem braLoop_runsForever : (start [(0, 600)]).RunsForever := by
  intro k
  have key : ∀ (k : Nat) (s : State), s.mem = [(0, 600)] → s.pc = 0 → s.halted = false → s.phase = .idle →
      ∃ t, s.runFor k = .next t ∧ t.mem = [(0, 600)] ∧ t.pc = 0 ∧ t.halted = false ∧ t.phase = .idle := by
    intro k
    induction k with
    | zero => exact fun s h1 h2 h3 h4 => ⟨s, rfl, h1, h2, h3, h4⟩
    | succ k ih =>
      intro s h1 h2 h3 h4
      obtain ⟨u, hu, h1, h2, h3, h4⟩ := braLoop_step h1 h2 h3 h4
      simp only [State.runFor, hu]
      exact ih u h1 h2 h3 h4
  obtain ⟨t, ht, h1, h2, h3, h4⟩ := key k (start [(0, 600)]) rfl rfl rfl rfl
  have hd : decode (fetchedWord t) = .ok (.bra 0) := by rw [fetchedWord, h1, h2]; rfl
  refine ⟨t, ht, h3, ?_, ?_⟩
  · rintro ⟨⟨_, h⟩, _⟩
    simp [h4, hd] at h
  · rintro ⟨⟨_, h⟩, _⟩
    simp [h4, hd] at h

theorem witness_RunEndsOnceOrWaitsOrRunsForever :
    haltedState.halted = true ∧ (∃ t, (start []).EndsIn t) ∧ (start [(0, 901)]).ComesToWait ∧
    (start [(0, 600)]).RunsForever :=
  ⟨rfl, ⟨_, 1, rfl, rfl⟩, ⟨0, _, rfl, .inl ⟨⟨rfl, rfl, rfl⟩, rfl⟩⟩, braLoop_runsForever⟩
theorem witness_PowerOnMeetsInvariant : Memory.wf [(0, 1), (99, 999)] = true := by decide
theorem witness_StepKeepsInvariant : busyState.Inv ∧ ∃ t, step busyState = .next t := ⟨busyState_inv, _, rfl⟩
theorem witness_ClockEdgeKeepsInvariant :
    waitingIn.Inv ∧ (waitingIn.phase = .idle → waitingIn.run = false) ∧
    (∃ t, clockEdge HostPins.quiet waitingIn = .next t) ∧ busyState.Inv ∧ (busyState.phase = .idle → busyState.run = false) ∧
    ∃ t, clockEdge HostPins.quiet busyState = .next t ∧ t.phase = .idle :=
  ⟨waitingIn_inv, by decide, ⟨_, rfl⟩, busyState_inv, by decide, _, rfl, rfl⟩
theorem witness_CanonicalMemoryIsUnique :
    Memory.wf [(0, 1), (99, 999)] = true ∧ ∀ a : Nat, Word.IsCell ((fun _ => 999#10 : Nat → Word) a) :=
  ⟨by decide, fun _ => show (999#10).toNat < 1000 by decide⟩
theorem witness_SequencerRefinesStep :
    let s := { start [(0, 520)] with phase := .fetch }
    s.halted = false ∧ s.phase = .fetch ∧ s.run = false ∧ s.pc.toNat < 100 ∧
    decode (Memory.read s.mem s.pc.toNat) = .ok (.lda 20) ∧ (∃ t, step s = .next t) ∧
    (∀ p ∈ [HostPins.quiet, HostPins.quiet], p.rst = false) ∧
    ({ HostPins.quiet with step := true } : HostPins).command = some .step :=
  ⟨rfl, rfl, rfl, by decide, by decide, ⟨_, rfl⟩, by decide, by decide⟩
theorem witness_SequencerRefinesStep_waits :
    ({ start [(0, 901)] with phase := .fetch } : State).AwaitsInput ∧
    ({ start [(0, 902)] with phase := .fetch, output := .interactive [] false } : State).AwaitsOutput ∧
    ({ start [] with phase := .fetch, run := true } : State).run = true ∧
    2 ≤ [HostPins.quiet, HostPins.quiet].length ∧ [HostPins.quiet] ≠ [] :=
  ⟨⟨⟨rfl, rfl, rfl⟩, rfl⟩, ⟨⟨rfl, rfl, rfl⟩, rfl⟩, rfl, by decide, by decide⟩
theorem witness_NothingVisibleBeforeCommit :
    HostPins.quiet.rst = false ∧ (∃ t, clockEdge HostPins.quiet waitingIn = .next t ∧ t.phase = .waitIn) ∧
    ∃ t, clockEdge HostPins.quiet { start [] with phase := .fetch } = .next t ∧ t.phase = .exec :=
  ⟨rfl, ⟨_, rfl, rfl⟩, _, rfl, rfl⟩
theorem witness_MachineResetFromEveryState : ({ HostPins.quiet with rst := true } : HostPins).rst = true := by decide
theorem witness_MemoryClearZeroesEveryCell :
    let p : HostPins := { HostPins.quiet with memClr := true }
    p.rst = false ∧ p.memClr = true ∧ acceptsCommand busyState = true := by decide
theorem witness_HostWriteWritesOneThing :
    let p : HostPins := { HostPins.quiet with hwEn := true, hwAddr := 99, hwData := 1005 }
    let q : HostPins := { HostPins.quiet with hwEn := true, hwAddr := 100, hwData := 1005 }
    Memory.wf busyState.mem = true ∧ p.rst = false ∧ p.memClr = false ∧ p.hwEn = true ∧ acceptsCommand busyState = true ∧
    p.hwSel = 0#2 ∧ p.hwAddr.toNat ≤ 99 ∧ 100 ≤ q.hwAddr.toNat ∧
    ({ p with hwSel := 1#2 } : HostPins).hwSel = 1#2 ∧ ({ p with hwSel := 2#2 } : HostPins).hwSel = 2#2 ∧
    ({ p with hwSel := 3#2 } : HostPins).hwSel = 3#2 := by decide
theorem witness_RunAndStepCommands :
    HostPins.quiet.rst = false ∧ HostPins.quiet.memClr = false ∧ HostPins.quiet.hwEn = false ∧
    acceptsCommand haltedState = true ∧ haltedState.halted = true ∧ acceptsCommand busyState = true ∧
    busyState.halted = false ∧ ({ HostPins.quiet with run := true } : HostPins).run = true ∧
    ({ HostPins.quiet with step := true } : HostPins).run = false := by decide
theorem witness_BusyEngineIgnoresCommands :
    ({ HostPins.quiet with memClr := true } : HostPins).rst = false ∧ acceptsCommand waitingIn = false ∧
    acceptsCommand { start [] with run := true } = false := by decide
theorem witness_CommandPriority :
    ({ HostPins.quiet with rst := true, memClr := true } : HostPins).rst = true ∧
    ({ HostPins.quiet with memClr := true, hwEn := true } : HostPins).memClr = true ∧
    ({ HostPins.quiet with hwEn := true, run := true } : HostPins).hwEn = true ∧
    ({ HostPins.quiet with run := true, step := true } : HostPins).run = true := by decide
theorem witness_OutputsAreViews :
    ({ HostPins.quiet with hrAddr := 99 } : HostPins).hrAddr.toNat ≤ 99 ∧
    ({ start [] with phase := .waitOut } : State).phase = .waitOut := by decide
theorem witness_ProgramLoadFillsFirstCells :
    Memory.wf busyState.mem = true ∧ acceptsCommand busyState = true ∧ (List.replicate 100 (999 : Word)).length ≤ 100 := by
  decide
theorem witness_OnlySubHostAndResetWriteNeg :
    ∃ t, clockEdge HostPins.quiet (latched 200) = .next t ∧ (latched 200).neg ≠ t.neg := ⟨_, rfl, by decide⟩
theorem witness_OnlyListedWritersChangeAcc :
    ∃ t, clockEdge HostPins.quiet (latched 500) = .next t ∧ t.acc ≠ (latched 500).acc := ⟨_, rfl, by decide⟩
theorem witness_OnlyListedWritersChangeMemory :
    ∃ t, clockEdge HostPins.quiet (latched 399) = .next t ∧ Memory.read t.mem 99 ≠ Memory.read (latched 399).mem 99 :=
  ⟨_, rfl, by decide⟩
theorem witness_OnlyResetClearsHalted :
    (∃ t, clockEdge { HostPins.quiet with rst := true } haltedState = .next t ∧ haltedState.halted = true ∧ t.halted = false) ∧
    ∃ t, clockEdge HostPins.quiet (latched 99) = .next t ∧ (latched 99).halted = false ∧ t.halted = true :=
  ⟨⟨_, rfl, rfl, rfl⟩, _, rfl, rfl, rfl⟩
theorem witness_PortEventsOnlyFromIoAndReset :
    (∃ t, clockEdge HostPins.quiet { waitingIn with input := .script [45] } = .next t ∧ t.portLog = [.ioReset, .input 45]) ∧
    (∃ t, clockEdge HostPins.quiet { latched 902 with phase := .waitOut } = .next t ∧ t.portLog = [.ioReset, .output 7]) ∧
    (∃ t, clockEdge { HostPins.quiet with rst := true } waitingIn = .next t ∧ t.portLog = [.ioReset, .ioReset]) ∧
    ∃ t, clockEdge HostPins.quiet waitingIn = .next t ∧ t.portLog = [.ioReset] :=
  ⟨⟨_, rfl, rfl⟩, ⟨_, rfl, rfl⟩, ⟨_, rfl, rfl⟩, _, rfl, rfl⟩

end Sys2Proof.Tests
end

section
/-! The decoder read backwards: what a decoded instruction says of its word (R90, R92, R94, R96). -/

namespace Sys2Proof

open Sys2Proof.Laws.EncodesToCell (cellOf_toNat)

/-- The hardware's threshold count is the division by 100, on the words 1000..1023 too (R92). -/
theorem opcodeOf_eq_div (v : Word) : opcodeOf v = v.toNat / 100 := by
  have hv : v.toNat < 1024 := v.isLt
  simp only [opcodeOf, opcodeThresholds, ← List.countP_eq_length_filter, List.countP_cons, List.countP_nil,
    decide_eq_true_eq]
  have hq : v.toNat / 100 ≤ 10 := by omega
  interval_cases h : v.toNat / 100 <;> simp (disch := omega) only [if_pos, if_neg]

theorem operandOf_eq_mod (v : Word) : operandOf v = v.toNat % 100 := by
  rw [operandOf, opcodeOf_eq_div]
  omega

theorem operandOf_lt (v : Word) : operandOf v < 100 := by
  rw [operandOf_eq_mod]
  omega

theorem cellOf_opcodeOf_operandOf (v : Word) : cellOf (opcodeOf v) (operandOf v) = v := by
  rw [cellOf, opcodeOf_eq_div, operandOf_eq_mod, Nat.div_add_mod, BitVec.ofNat_toNat, BitVec.setWidth_eq]

/-- What opcode 9's second decoding gives is well-formed, and its encoding has the operand it was decoded from (R95). -/
theorem decodeOpcode9_spec {x : Nat} (hx : x < 100) :
    (decodeOpcode9 x).wellFormed = true ∧ encode (decodeOpcode9 x) = cellOf 9 x := by
  match x, hx with
  | 0, _ => exact ⟨rfl, rfl⟩
  | 1, _ => exact ⟨rfl, rfl⟩
  | 2, _ => exact ⟨rfl, rfl⟩
  | x + 3, hx => simp [decodeOpcode9, Instr.wellFormed, operandInRange, encode, hx]

/-- A decoded instruction is well-formed and its encoding is the word (R90, R94). -/
theorem decode_ok {v : Word} {i : Instr} (h : decode v = .ok i) : i.wellFormed = true ∧ encode i = v := by
  have hlt : operandInRange (operandOf v) = true := decide_eq_true (operandOf_lt v)
  have hv := cellOf_opcodeOf_operandOf v
  unfold decode at h
  split at h
  case h_10 hop =>
    cases h
    rw [hop] at hv
    obtain ⟨hwf, henc⟩ := decodeOpcode9_spec (operandOf_lt v)
    exact ⟨hwf, henc.trans hv⟩
  case h_11 => cases h
  all_goals
    rename_i hop
    cases h
    rw [hop] at hv
    exact ⟨hlt, hv⟩

/-- Only the words 1000..1023 decode to no instruction (R96 c). -/
theorem decode_error {v : Word} {e : DecodeError} (h : decode v = .error e) : 1000 ≤ v.toNat := by
  by_contra hlt
  have hop : opcodeOf v ≤ 9 := by
    rw [opcodeOf_eq_div]
    omega
  unfold decode at h
  interval_cases opcodeOf v <;> cases h

theorem decode_halt_le {v : Word} {x : Nat} (h : decode v = .ok (.halt x)) : v.toNat ≤ 99 := by
  obtain ⟨hwf, rfl⟩ := decode_ok h
  have hx : x < 100 := of_decide_eq_true hwf
  rw [encode, cellOf_toNat (by decide) hx]
  omega

theorem isIllegalWord_iff {v : Word} :
    isIllegalWord v = true ↔ (400 ≤ v.toNat ∧ v.toNat ≤ 499) ∨ v.toNat = 900 ∨ 903 ≤ v.toNat := by
  simp only [isIllegalWord, Bool.or_eq_true, Bool.and_eq_true, beq_iff_eq, decide_eq_true_eq]
  omega

/-- An instruction of an illegal row comes from a word of the ranges of R96. -/
theorem isIllegalWord_of_decode {v : Word} {i : Instr} (h : decode v = .ok i) (hi : i.isIllegal = true) :
    isIllegalWord v = true := by
  obtain ⟨hwf, rfl⟩ := decode_ok h
  cases i with
  | illegalOpcode4 x =>
    have hx : x < 100 := of_decide_eq_true hwf
    have hv : (encode (.illegalOpcode4 x)).toNat = 400 + x := cellOf_toNat (by decide) hx
    rw [isIllegalWord_iff]
    omega
  | illegal900 => rfl
  | illegal903 x =>
    simp only [Instr.wellFormed, operandInRange, Bool.and_eq_true, decide_eq_true_eq] at hwf
    have hv : (encode (.illegal903 x)).toNat = 900 + x := cellOf_toNat (by decide) hwf.2
    rw [isIllegalWord_iff]
    omega
  | _ => cases hi

theorem isIllegalWord_of_decode_error {v : Word} {e : DecodeError} (h : decode v = .error e) :
    isIllegalWord v = true := by
  have hv := decode_error h
  rw [isIllegalWord_iff]
  omega

end Sys2Proof
end

section
/-! `exec_cases` with a name for each case, and what an instruction writes, register by register (R24, R25, R28, R31). -/

namespace Sys2Proof.Machine

/-- What the instruction `i` leaves when it answers a next state, one constructor per effect. -/
inductive ExecEffect (s : State) : Instr → State → Prop
  /-- HALT (R126). -/
  | halt (x : Nat) : ExecEffect s (.halt x) (takeHalt .haltInstr (advance s))
  /-- The three illegal rows (R127). -/
  | illegal {i : Instr} (hi : i.isIllegal = true) : ExecEffect s i (takeIllegal s)
  /-- ADD (R152). -/
  | add {a : Nat} (ha : a < 100) :
    ExecEffect s (.add a) (finishStep (advance (writeAcc (add1000 s.acc (Memory.read s.mem a)) s)))
  /-- SUB (R153). -/
  | sub {a : Nat} (ha : a < 100) :
    ExecEffect s (.sub a) (finishStep (advance (writeNeg (sub1000 s.acc (Memory.read s.mem a)).2
      (writeAcc (sub1000 s.acc (Memory.read s.mem a)).1 s))))
  /-- STA (R172). -/
  | sta {a : Nat} (ha : a < 100) : ExecEffect s (.sta a) (finishStep (advance (writeCell a s.acc s)))
  /-- LDA (R171). -/
  | lda {a : Nat} (ha : a < 100) :
    ExecEffect s (.lda a) (finishStep (advance (writeAcc (norm (Memory.read s.mem a)) s)))
  /-- A branch that is taken (R191 to R193). -/
  | taken {i : Instr} {a : Nat} (hi : i = .bra a ∨ (i = .brz a ∧ s.acc = 0) ∨ (i = .brp a ∧ s.neg = false)) :
    ExecEffect s i (finishStep (jump a s))
  /-- A branch that is not taken (R192, R193). -/
  | notTaken {i : Instr} {a : Nat} (hi : (i = .brz a ∧ s.acc ≠ 0) ∨ (i = .brp a ∧ s.neg = true)) :
    ExecEffect s i (finishStep (advance s))
  /-- INP's transfer (R213). -/
  | inp {x : Word} (hx : s.input.offer = some x) :
    ExecEffect s .inp (finishStep (advance (writeAcc (norm x) (transferIn x s))))
  /-- OUT's transfer (R215). -/
  | out (ho : s.output.ready = true) : ExecEffect s .out (finishStep (advance (transferOut s.acc s)))

theorem execEffect_of_exec {i : Instr} {s t : State} (h : exec i s = .next t) : ExecEffect s i t := by
  obtain ⟨c, rfl, ⟨x, rfl, rfl⟩ | ⟨hi, rfl⟩⟩ | ⟨a, ha, rfl, rfl⟩ | ⟨a, ha, rfl, rfl⟩ | ⟨a, ha, rfl, rfl⟩ |
    ⟨a, ha, rfl, rfl⟩ | ⟨a, hi, rfl⟩ | ⟨a, hi, rfl⟩ | ⟨rfl, x, hx, rfl⟩ | ⟨rfl, ho, rfl⟩ := exec_cases h
  · exact .halt x
  · exact .illegal hi
  · exact .add ha
  · exact .sub ha
  · exact .sta ha
  · exact .lda ha
  · exact .taken hi
  · exact .notTaken hi
  · exact .inp hx
  · exact .out ho

section
variable {i : Instr} {s t : State}

/-- PC after an instruction: the advance, or a branch's target (R123, R190). -/
theorem exec_pc (h : exec i s = .next t) :
    t.pc = inc s.pc ∨ ∃ a, (i = .bra a ∨ i = .brz a ∨ i = .brp a) ∧ t.pc = branchTarget a := by
  cases execEffect_of_exec h
  case taken a hi => exact .inr ⟨a, by tauto, rfl⟩
  all_goals exact .inl rfl

/-- NEG is SUB's alone (R25). -/
theorem exec_neg (h : exec i s = .next t) : t.neg = s.neg ∨ ∃ a, i = .sub a := by
  cases execEffect_of_exec h
  case sub a ha => exact .inr ⟨a, rfl⟩
  all_goals exact .inl rfl

/-- ACC is written by LDA, ADD, SUB and INP (R24). -/
theorem exec_acc (h : exec i s = .next t) :
    t.acc = s.acc ∨ (∃ a, i = .lda a ∨ i = .add a ∨ i = .sub a) ∨ i = .inp := by
  cases execEffect_of_exec h
  case lda a ha => exact .inr (.inl ⟨a, .inl rfl⟩)
  case add a ha => exact .inr (.inl ⟨a, .inr (.inl rfl)⟩)
  case sub a ha => exact .inr (.inl ⟨a, .inr (.inr rfl)⟩)
  case inp x hx => exact .inr (.inr rfl)
  all_goals exact .inl rfl

/-- Memory is STA's alone (R22, R172). -/
theorem exec_mem (h : exec i s = .next t) :
    t.mem = s.mem ∨ ∃ a, i = .sta a ∧ t.mem = Memory.write s.mem a s.acc := by
  cases execEffect_of_exec h
  case sta a ha => exact .inr ⟨a, rfl, rfl⟩
  all_goals exact .inl rfl

/-- HALTED is kept, or set by HALT or an illegal row with its cause (R126, R127). -/
theorem exec_halted (h : exec i s = .next t) :
    t.halted = s.halted ∨
    (t.halted = true ∧ (((∃ x, i = .halt x) ∧ t.haltCause = .haltInstr) ∨ (i.isIllegal = true ∧ t.haltCause = .illegal))) := by
  cases execEffect_of_exec h
  case halt x => exact .inr ⟨rfl, .inl ⟨⟨x, rfl⟩, rfl⟩⟩
  case illegal hi => exact .inr ⟨rfl, .inr ⟨hi, rfl⟩⟩
  all_goals exact .inl rfl

/-- Every commit comes to a step boundary (R34). -/
theorem exec_phase (h : exec i s = .next t) : t.phase = .idle := by
  cases execEffect_of_exec h <;> rfl

end

/-- Settles O10: an instruction that is no branch advances PC, and `inc` takes 99 to 100. -/
theorem incrementWrapsModulo1000 : Obligations.IncrementWrapsModulo1000 := by
  refine ⟨inc_toNat, by decide, by decide, fun i s t hi hpc h => ?_⟩
  obtain hadv | ⟨a, hbr, -⟩ := exec_pc h
  · rw [hadv, hpc]
    decide
  · have := hi a
    tauto

end Sys2Proof.Machine
end

section
/-! The step by its cases, with the decoded instruction (R120, R124). -/

namespace Sys2Proof.Machine

theorem executeLatched_of_decode {s : State} {i : Instr} (h : decode s.ir = .ok i) : executeLatched s = exec i s := by
  simp only [executeLatched, h]

/-- The latched word is an instruction that is executed, or has none and takes the fault (R124, R96 c). -/
theorem executeLatched_cases {s t : State} (h : executeLatched s = .next t) :
    (∃ i, decode s.ir = .ok i ∧ exec i s = .next t) ∨ ((∃ e, decode s.ir = .error e) ∧ t = takeIllegal s) := by
  cases hd : decode s.ir with
  | ok i => exact .inl ⟨i, rfl, executeLatched_of_decode hd ▸ h⟩
  | error e =>
    simp only [executeLatched, hd] at h
    cases h
    exact .inr ⟨⟨e, rfl⟩, rfl⟩

theorem fetchAndExecute_cases {s t : State} (h : fetchAndExecute s = .next t) :
    (fetchable s = true ∧ executeLatched (latch s) = .next t) ∨ (fetchable s = false ∧ t = takeFetchRange s) := by
  cases hf : fetchable s with
  | true => exact .inl ⟨rfl, by simpa [fetchAndExecute, hf] using h⟩
  | false =>
    simp only [fetchAndExecute, hf] at h
    cases h
    exact .inr ⟨rfl, rfl⟩

/-- Everything a step can do when it answers a next state, by HALTED and PHASE (R120, R130, R134). -/
theorem step_cases {s t : State} (h : step s = .next t) :
    (s.halted = true ∧ t = s) ∨ (s.AtStepStart ∧ fetchAndExecute s = .next t) ∨
    (s.halted = false ∧ s.phase = .exec ∧ executeLatched s = .next t) ∨
    (s.halted = false ∧ s.phase = .waitIn ∧ exec .inp s = .next t) ∨
    (s.halted = false ∧ s.phase = .waitOut ∧ exec .out s = .next t) := by
  cases hh : s.halted <;> simp only [step, executeOne, hh] at h
  case true =>
    cases h
    exact .inl ⟨rfl, rfl⟩
  case false =>
    cases hp : s.phase <;> simp only [hp] at h
    case idle => exact .inr (.inl ⟨⟨hh, .inl hp⟩, h⟩)
    case fetch => exact .inr (.inl ⟨⟨hh, .inr hp⟩, h⟩)
    case exec => exact .inr (.inr (.inl ⟨rfl, rfl, h⟩))
    case waitIn => exact .inr (.inr (.inr (.inl ⟨rfl, rfl, h⟩)))
    case waitOut => exact .inr (.inr (.inr (.inr ⟨rfl, rfl, h⟩)))

end Sys2Proof.Machine
end

section
/-! The invariant under the shared operations, an instruction and a step (R20, R23, R32, R34, R132, R134). -/

namespace Sys2Proof.Machine

section
variable {s : State}

theorem State.InRange.advance (h : s.InRange) : (advance s).InRange := ⟨h.1, h.2.1, inc_isCell s.pc⟩

theorem State.InRange.jump (h : s.InRange) (a : Nat) : (jump a s).InRange := by
  refine ⟨h.1, h.2.1, ?_⟩
  rw [Word.IsCell, jump_pc, branchTarget_toNat]
  omega

theorem State.InRange.writeAcc (h : s.InRange) {v : Word} (hv : v.IsCell) : (writeAcc v s).InRange :=
  ⟨h.1, hv, h.2.2⟩

theorem State.InRange.writeCell (h : s.InRange) {a : Nat} (ha : a < 100) (v : Word) : (writeCell a v s).InRange :=
  ⟨Memory.wf_write h.1 ha v, h.2⟩

/-- The end of a step needs no fact about PHASE, RUN or IR: it sets them itself. -/
theorem finishStep_inv (hr : s.InRange) (hc : s.halted = true ↔ s.haltCause ≠ .none) : (finishStep s).Inv where
  inRange := hr
  haltConsistent := ⟨hc, fun hh => ⟨rfl, by simp [show s.halted = true from hh]⟩⟩
  phaseConsistent := trivial

theorem takeHalt_inv (hr : s.InRange) {c : HaltCause} (hc : c ≠ .none) : (takeHalt c s).Inv :=
  finishStep_inv hr ⟨fun _ => hc, fun _ => rfl⟩

theorem takeIllegal_inv (hr : s.InRange) : (takeIllegal s).Inv := takeHalt_inv hr.advance (by decide)

theorem takeFetchRange_inv (hr : s.InRange) : (takeFetchRange s).Inv := takeHalt_inv hr (by decide)

namespace State.Inv

theorem not_halted (h : s.Inv) (hp : s.phase ≠ .idle) : s.halted = false := by
  by_contra hh
  exact hp (h.haltConsistent.2 (eq_true_of_ne_false hh)).1

theorem latched (h : s.Inv) (hp : s.phase = .exec ∨ s.phase = .waitIn ∨ s.phase = .waitOut) : s.Latched := by
  have hc := h.phaseConsistent
  obtain hp | hp | hp := hp <;> simp only [State.PhaseConsistent, hp] at hc
  · exact hc
  · exact hc.1
  · exact hc.1

theorem decode_waitIn (h : s.Inv) (hp : s.phase = .waitIn) : decode s.ir = .ok .inp := by
  have hc := h.phaseConsistent
  simp only [State.PhaseConsistent, hp] at hc
  exact hc.2

theorem decode_waitOut (h : s.Inv) (hp : s.phase = .waitOut) : decode s.ir = .ok .out := by
  have hc := h.phaseConsistent
  simp only [State.PhaseConsistent, hp] at hc
  exact hc.2

end State.Inv

theorem latch_inv (h : s.Inv) (hh : s.halted = false) (hf : fetchable s = true) : (latch s).Inv where
  inRange := h.inRange
  haltConsistent := ⟨h.haltConsistent.1, fun ht => absurd (ht.symm.trans hh) (by decide)⟩
  phaseConsistent := show (latch s).Latched from ⟨hf, rfl⟩

/-- An instruction needs the invariant of its state but for PHASE and RUN. -/
theorem exec_inv {i : Instr} {t : State} (hr : s.InRange) (hc : s.halted = true ↔ s.haltCause ≠ .none)
    (h : exec i s = .next t) : t.Inv := by
  have hcell (a : Nat) : (Memory.read s.mem a).IsCell := Memory.read_isCell hr.1 a
  cases execEffect_of_exec h with
  | halt x => exact takeHalt_inv hr.advance (by decide)
  | illegal hi => exact takeIllegal_inv hr
  | add ha => exact finishStep_inv (hr.writeAcc (add1000_isCell hr.2.1 (hcell _))).advance hc
  | sub ha => exact finishStep_inv (hr.writeAcc (sub1000_isCell hr.2.1 (hcell _))).advance hc
  | sta ha => exact finishStep_inv (hr.writeCell ha s.acc).advance hc
  | lda ha => exact finishStep_inv (hr.writeAcc (norm_isCell _)).advance hc
  | taken hi => exact finishStep_inv (hr.jump _) hc
  | notTaken hi => exact finishStep_inv hr.advance hc
  | inp hx => exact finishStep_inv (hr.writeAcc (norm_isCell _)).advance hc
  | out ho => exact finishStep_inv hr.advance hc

theorem executeLatched_inv {t : State} (hs : s.Inv) (h : executeLatched s = .next t) : t.Inv := by
  obtain ⟨i, -, hi⟩ | ⟨-, rfl⟩ := executeLatched_cases h
  · exact exec_inv hs.inRange hs.haltConsistent.1 hi
  · exact takeIllegal_inv hs.inRange

/-- Under the invariant a step is a no-op, the fetch-range fault, or the latched instruction executed: the invariant
says that a wait phase's instruction is the latched one. -/
theorem State.Inv.step_cases {t : State} (hs : s.Inv) (h : step s = .next t) :
    t = s ∨ t = takeFetchRange s ∨ ∃ u : State, u.Inv ∧ u.Latched ∧ executeLatched u = .next t ∧ u.pc = s.pc := by
  obtain ⟨-, rfl⟩ | ⟨⟨hh, -⟩, h⟩ | ⟨-, hp, h⟩ | ⟨-, hp, h⟩ | ⟨-, hp, h⟩ := Machine.step_cases h
  · exact .inl rfl
  · obtain ⟨hf, h⟩ | ⟨-, rfl⟩ := fetchAndExecute_cases h
    · exact .inr (.inr ⟨latch s, latch_inv hs hh hf, ⟨hf, rfl⟩, h, rfl⟩)
    · exact .inr (.inl rfl)
  · exact .inr (.inr ⟨s, hs, hs.latched (.inl hp), h, rfl⟩)
  · exact .inr (.inr ⟨s, hs, hs.latched (.inr (.inl hp)), executeLatched_of_decode (hs.decode_waitIn hp) ▸ h, rfl⟩)
  · exact .inr (.inr ⟨s, hs, hs.latched (.inr (.inr hp)), executeLatched_of_decode (hs.decode_waitOut hp) ▸ h, rfl⟩)

/-- From a fetchable address the advance gives at most 100, and a decoded branch's target is below 100 (R30, R190). -/
theorem executeLatched_pc_le {t : State} (hf : fetchable s = true) (h : executeLatched s = .next t) :
    t.pc.toNat ≤ 100 := by
  have hinc : (inc s.pc).toNat ≤ 100 := by
    have hpc : s.pc.toNat < 100 := of_decide_eq_true hf
    rw [inc_toNat]
    omega
  obtain ⟨i, hd, hi⟩ | ⟨-, rfl⟩ := executeLatched_cases h
  · obtain hpc | ⟨a, hbr, hpc⟩ := exec_pc hi
    · rwa [hpc]
    · have ha : a < 100 := by
        have hwf := (decode_ok hd).1
        obtain rfl | rfl | rfl := hbr <;> exact of_decide_eq_true hwf
      rw [hpc, branchTarget_toNat]
      omega
  · exact hinc

end

/-- Settles O40: a step is a no-op, the fetch-range fault or the latched instruction, and each keeps the invariant. -/
theorem stepKeepsInvariant : Obligations.StepKeepsInvariant := by
  intro s t hs h
  obtain rfl | rfl | ⟨u, hu, -, h, -⟩ := hs.step_cases h
  · exact hs
  · exact takeFetchRange_inv hs.inRange
  · exact executeLatched_inv hu h

/-- Settles O37, by the same cases of a step. -/
theorem stepsKeepPcAtMost100 : Obligations.StepsKeepPcAtMost100 := by
  intro s t hs hpc h
  obtain rfl | rfl | ⟨u, -, hl, h, -⟩ := hs.step_cases h
  · exact hpc
  · exact hpc
  · exact executeLatched_pc_le hl.1 h

end Sys2Proof.Machine
end

section
/-! The host's commands: which one takes effect, and what it leaves in each register (R41, R42, R131, R132, R272). -/

namespace Sys2Proof.Machine

theorem acceptsCommand_iff {s : State} : acceptsCommand s = true ↔ s.phase = .idle ∧ s.run = false := by
  simp [acceptsCommand]

/-- What an accepted command leaves, one constructor per effect. -/
inductive CommandEffect (s : State) : HostCommand → State → Prop
  /-- `mem_clr` (R272). -/
  | memClear : CommandEffect s .memClear (memClear s)
  /-- A host write of a cell (R42). -/
  | writeMem {addr : BitVec 7} {data : Word} (ha : addr.toNat < 100) :
    CommandEffect s (.write .mem addr data) (writeCell addr.toNat data s)
  /-- A host write of PC (R42). -/
  | writePc {addr : BitVec 7} {data : Word} : CommandEffect s (.write .pc addr data) { s with pc := norm data }
  /-- A host write of ACC (R42). -/
  | writeAcc {addr : BitVec 7} {data : Word} : CommandEffect s (.write .acc addr data) (writeAcc (norm data) s)
  /-- A host write of NEG (R42). -/
  | writeNeg {addr : BitVec 7} {data : Word} : CommandEffect s (.write .neg addr data) (writeNeg (bit0 data) s)
  /-- `run` (R132). -/
  | run (hh : s.halted = false) : CommandEffect s .run { s with run := true, phase := .fetch }
  /-- `step` (R131). -/
  | step (hh : s.halted = false) : CommandEffect s .step { s with phase := .fetch }
  /-- A host write where no cell is (R43), and `run` and `step` when halted (R130). -/
  | nothing {c : HostCommand}
    (hc : (∃ addr data, c = .write .mem addr data ∧ 100 ≤ addr.toNat) ∨ (s.halted = true ∧ (c = .run ∨ c = .step))) :
    CommandEffect s c s

theorem hostWriteMem_of_lt {addr : BitVec 7} (h : addr.toNat < 100) (data : Word) (s : State) :
    hostWriteMem addr data s = writeCell addr.toNat data s := if_pos h

theorem hostWriteMem_of_le {addr : BitVec 7} (h : 100 ≤ addr.toNat) (data : Word) (s : State) :
    hostWriteMem addr data s = s := if_neg (Nat.not_lt_of_le h)

theorem beginRun_of_not_halted {s : State} (h : s.halted = false) :
    beginRun s = { s with run := true, phase := .fetch } := if_neg (by simp [h])

theorem beginRun_of_halted {s : State} (h : s.halted = true) : beginRun s = s := if_pos h

theorem beginStep_of_not_halted {s : State} (h : s.halted = false) : beginStep s = { s with phase := .fetch } :=
  if_neg (by simp [h])

theorem beginStep_of_halted {s : State} (h : s.halted = true) : beginStep s = s := if_pos h

theorem commandEffect_applyCommand (c : HostCommand) (s : State) : CommandEffect s c (applyCommand c s) := by
  cases c with
  | memClear => exact .memClear
  | write sel addr data =>
    cases sel with
    | mem =>
      rw [applyCommand, hostWrite]
      obtain h | h := Nat.lt_or_ge addr.toNat 100
      · rw [hostWriteMem_of_lt h]
        exact .writeMem h
      · rw [hostWriteMem_of_le h]
        exact .nothing (.inl ⟨addr, data, rfl, h⟩)
    | pc => exact .writePc
    | acc => exact .writeAcc
    | neg => exact .writeNeg
  | run =>
    cases hh : s.halted with
    | false =>
      rw [applyCommand, beginRun_of_not_halted hh]
      exact .run hh
    | true =>
      rw [applyCommand, beginRun_of_halted hh]
      exact .nothing (.inr ⟨hh, .inl rfl⟩)
  | step =>
    cases hh : s.halted with
    | false =>
      rw [applyCommand, beginStep_of_not_halted hh]
      exact .step hh
    | true =>
      rw [applyCommand, beginStep_of_halted hh]
      exact .nothing (.inr ⟨hh, .inr rfl⟩)

section
variable {c : HostCommand} {s t : State}

theorem CommandEffect.neg_cases (h : CommandEffect s c t) : t.neg = s.neg ∨ ∃ addr data, c = .write .neg addr data := by
  cases h
  case writeNeg addr data => exact .inr ⟨addr, data, rfl⟩
  all_goals exact .inl rfl

theorem CommandEffect.acc_cases (h : CommandEffect s c t) : t.acc = s.acc ∨ ∃ addr data, c = .write .acc addr data := by
  cases h
  case writeAcc addr data => exact .inr ⟨addr, data, rfl⟩
  all_goals exact .inl rfl

/-- A cell is changed by `mem_clr`, or by the host write of that cell (R22). -/
theorem CommandEffect.read_cases (h : CommandEffect s c t) (b : Nat) :
    Memory.read t.mem b = Memory.read s.mem b ∨ c = .memClear ∨
    ∃ data, c = .write .mem (BitVec.ofNat 7 b) data ∧ b ≤ 99 := by
  cases h
  case memClear => exact .inr (.inl rfl)
  case writeMem addr data ha =>
    by_cases hb : b = addr.toNat
    · subst hb
      exact .inr (.inr ⟨data, by simp, by omega⟩)
    · exact .inl (Memory.read_write_other s.mem data hb)
  all_goals exact .inl rfl

/-- No command touches HALTED: only `rst` leaves the halted state (R46). -/
theorem CommandEffect.halted_eq (h : CommandEffect s c t) : t.halted = s.halted := by
  cases h <;> rfl

/-- After an accepted command the engine is idle with RUN = 0 still, or it fetches (R131, R132). -/
theorem CommandEffect.phase_cases (h : CommandEffect s c t) (ha : acceptsCommand s = true) :
    (t.phase = .idle ∧ t.run = false) ∨ t.phase = .fetch := by
  cases h
  case run => exact .inr rfl
  case step => exact .inr rfl
  all_goals exact .inl (acceptsCommand_iff.mp ha)

/-- Where the engine accepts commands, the invariant says nothing of PHASE and IR. -/
theorem inv_of_accepts (hr : s.InRange) (hc : s.halted = true ↔ s.haltCause ≠ .none) (ha : acceptsCommand s = true) :
    s.Inv where
  inRange := hr
  haltConsistent := ⟨hc, fun _ => acceptsCommand_iff.mp ha⟩
  phaseConsistent := by simp only [State.PhaseConsistent, (acceptsCommand_iff.mp ha).1]

/-- An engine that is not halted meets the invariant in FETCH. -/
theorem inv_of_fetch (hr : s.InRange) (hc : s.halted = true ↔ s.haltCause ≠ .none) (hh : s.halted = false)
    (hp : s.phase = .fetch) : s.Inv where
  inRange := hr
  haltConsistent := ⟨hc, fun ht => absurd (ht.symm.trans hh) (by decide)⟩
  phaseConsistent := by simp only [State.PhaseConsistent, hp]

theorem CommandEffect.inv (h : CommandEffect s c t) (hs : s.Inv) (ha : acceptsCommand s = true) : t.Inv := by
  obtain ⟨hm, hacc, hpc⟩ := hs.inRange
  have hc := hs.haltConsistent.1
  cases h with
  | memClear => exact inv_of_accepts ⟨rfl, hacc, hpc⟩ hc ha
  | writeMem haddr => exact inv_of_accepts (hs.inRange.writeCell haddr _) hc ha
  | writePc => exact inv_of_accepts ⟨hm, hacc, norm_isCell _⟩ hc ha
  | writeAcc => exact inv_of_accepts (hs.inRange.writeAcc (norm_isCell _)) hc ha
  | writeNeg => exact inv_of_accepts hs.inRange hc ha
  | run hh => exact inv_of_fetch hs.inRange hc hh rfl
  | step hh => exact inv_of_fetch hs.inRange hc hh rfl
  | nothing => exact hs

end
end Sys2Proof.Machine
end

section
/-! The clock edge by its cases (R134), and which pins it depends on (R41). -/

namespace Sys2Proof.Machine

/-- The edge fetches: in FETCH, or at a step boundary under RUN (log 7). -/
abbrev State.Fetches (s : State) : Prop := s.phase = .fetch ∨ (s.phase = .idle ∧ s.run = true ∧ s.halted = false)

/-- What an edge without `rst` leaves, one constructor per row of the sequencer (R134). -/
inductive SequencerEdge (p : HostPins) (s : State) : State → Prop
  /-- The fetch latches IR (R122). -/
  | latch (hs : s.Fetches) (hf : fetchable s = true) : SequencerEdge p s (latch s)
  /-- The fetch-range fault (R129). -/
  | fetchRange (hs : s.Fetches) (hf : fetchable s = false) : SequencerEdge p s (takeFetchRange s)
  /-- An accepted host command (R41). -/
  | command {c : HostCommand} {t : State} (ha : acceptsCommand s = true) (hc : p.command = some c)
    (ht : CommandEffect s c t) : SequencerEdge p s t
  /-- IDLE without an accepted command, or a wait whose device does not act (R211, R214). -/
  | keep (hs : (s.phase = .idle ∧ (p.command = none ∨ acceptsCommand s = false)) ∨
      (s.phase = .waitIn ∧ s.input.offer = none) ∨ (s.phase = .waitOut ∧ s.output.ready = false)) : SequencerEdge p s s
  /-- INP goes to its wait phase. -/
  | waitIn (hp : s.phase = .exec) (hd : decode s.ir = .ok .inp) : SequencerEdge p s (waitAt .waitIn s)
  /-- OUT goes to its wait phase. -/
  | waitOut (hp : s.phase = .exec) (hd : decode s.ir = .ok .out) : SequencerEdge p s (waitAt .waitOut s)
  /-- Every other instruction commits in EXEC. -/
  | commit {i : Instr} {u : State} (hp : s.phase = .exec) (hd : decode s.ir = .ok i) (hi : i.isIo = false)
    (hu : exec i s = .next u) : SequencerEdge p s (beginNextStep u)
  /-- A word with no row takes the illegal-instruction fault in EXEC (R96 c). -/
  | undecodable (hp : s.phase = .exec) (hd : ∃ e, decode s.ir = .error e) : SequencerEdge p s (takeIllegal s)
  /-- INP commits in WAIT_IN when a value is offered. -/
  | commitInp {u : State} (hp : s.phase = .waitIn) (ho : s.input.offer.isSome = true) (hu : exec .inp s = .next u) :
    SequencerEdge p s (beginNextStep u)
  /-- OUT commits in WAIT_OUT when the device is ready. -/
  | commitOut {u : State} (hp : s.phase = .waitOut) (ho : s.output.ready = true) (hu : exec .out s = .next u) :
    SequencerEdge p s (beginNextStep u)

section
variable {p : HostPins} {s t : State}

theorem clockEdge_of_rst (hr : p.rst = true) : clockEdge p s = .next (machineReset s) := if_pos hr

theorem sequencerEdge_of_fetchEdge (hs : s.Fetches) (h : fetchEdge s = .next t) : SequencerEdge p s t := by
  cases hf : fetchable s <;> simp only [fetchEdge, hf] at h <;> cases h
  · exact .fetchRange hs hf
  · exact .latch hs hf

theorem sequencerEdge_of_idleEdge (hp : s.phase = .idle) (h : idleEdge p s = .next t) : SequencerEdge p s t := by
  cases hc : p.command with
  | none =>
    simp only [idleEdge, hc] at h
    cases h
    exact .keep (.inl ⟨hp, .inl hc⟩)
  | some c =>
    cases ha : acceptsCommand s <;> simp only [idleEdge, hc, hostCommand, ha] at h <;> cases h
    · exact .keep (.inl ⟨hp, .inr ha⟩)
    · exact .command ha hc (commandEffect_applyCommand c s)

theorem isIo_eq_false {i : Instr} (hin : i ≠ .inp) (hout : i ≠ .out) : i.isIo = false := by
  cases i with
  | inp => exact absurd rfl hin
  | out => exact absurd rfl hout
  | _ => rfl

theorem sequencerEdge_of_execEdge (hp : s.phase = .exec) (h : execEdge s = .next t) : SequencerEdge p s t := by
  unfold execEdge at h
  split at h
  case h_1 hd =>
    cases h
    exact .waitIn hp hd
  case h_2 hd =>
    cases h
    exact .waitOut hp hd
  case h_3 hin hout =>
    obtain ⟨u, hu, rfl⟩ := commitEdge_next h
    obtain ⟨i, hd, hi⟩ | ⟨hd, rfl⟩ := executeLatched_cases hu
    · exact .commit hp hd (isIo_eq_false (fun hi => hin (hi ▸ hd)) (fun hi => hout (hi ▸ hd))) hi
    · rw [beginNextStep_of_not_run (takeIllegal_run s)]
      exact .undecodable hp hd

theorem sequencerEdge_of_waitInEdge (hp : s.phase = .waitIn) (h : waitInEdge s = .next t) : SequencerEdge p s t := by
  cases ho : s.input.offer with
  | none =>
    simp only [waitInEdge, ho] at h
    cases h
    exact .keep (.inr (.inl ⟨hp, ho⟩))
  | some x =>
    simp only [waitInEdge, ho] at h
    obtain ⟨u, hu, rfl⟩ := commitEdge_next h
    exact .commitInp hp (by simp [ho]) hu

theorem sequencerEdge_of_waitOutEdge (hp : s.phase = .waitOut) (h : waitOutEdge s = .next t) :
    SequencerEdge p s t := by
  cases ho : s.output.ready <;> simp only [waitOutEdge, ho] at h
  · cases h
    exact .keep (.inr (.inr ⟨hp, ho⟩))
  · obtain ⟨u, hu, rfl⟩ := commitEdge_next h
    exact .commitOut hp ho hu

/-- Everything an edge without `rst` can do (R134). -/
theorem sequencerEdge_of_clockEdge (hr : p.rst = false) (h : clockEdge p s = .next t) : SequencerEdge p s t := by
  simp only [clockEdge, hr] at h
  cases hp : s.phase <;> simp only [hp] at h
  case idle =>
    cases hg : s.run && !s.halted <;> simp only [hg] at h
    · exact sequencerEdge_of_idleEdge hp h
    · exact sequencerEdge_of_fetchEdge (.inr ⟨hp, by simpa using hg⟩) h
  case fetch => exact sequencerEdge_of_fetchEdge (.inl hp) h
  case exec => exact sequencerEdge_of_execEdge hp h
  case waitIn => exact sequencerEdge_of_waitInEdge hp h
  case waitOut => exact sequencerEdge_of_waitOutEdge hp h

/-- Everything an edge can do (R41, R134). -/
theorem clockEdge_cases (h : clockEdge p s = .next t) :
    (p.rst = true ∧ t = machineReset s) ∨ (p.rst = false ∧ SequencerEdge p s t) := by
  cases hr : p.rst with
  | true =>
    rw [clockEdge_of_rst hr] at h
    cases h
    exact .inl ⟨rfl, rfl⟩
  | false => exact .inr ⟨rfl, sequencerEdge_of_clockEdge hr h⟩

end
end Sys2Proof.Machine
end

section
/-! The invariant at every clock edge, and what an unfinished step shows (R42, R45, R121, R132, R134). -/

namespace Sys2Proof.Machine

section
variable {p : HostPins} {s t : State}

theorem machineReset_inv (hm : Memory.wf s.mem = true) : (machineReset s).Inv where
  inRange := ⟨hm, show (0#10).toNat < 1000 by decide, show (0#10).toNat < 1000 by decide⟩
  haltConsistent := ⟨by simp, by simp⟩
  phaseConsistent := trivial

theorem waitAt_inv {w : Phase} (hs : s.Inv) (hh : s.halted = false) (hw : (waitAt w s).PhaseConsistent) :
    (waitAt w s).Inv where
  inRange := hs.inRange
  haltConsistent := ⟨hs.haltConsistent.1, fun ht => absurd (ht.symm.trans hh) (by decide)⟩
  phaseConsistent := hw

theorem beginNextStep_inv (h : s.Inv) : (beginNextStep s).Inv := by
  unfold beginNextStep
  split
  case isTrue hg =>
    obtain ⟨-, hh⟩ : s.run = true ∧ s.halted = false := by simpa using hg
    exact inv_of_fetch h.inRange h.haltConsistent.1 hh rfl
  case isFalse => exact h

/-- An instruction's commit at a clock edge. -/
theorem beginNextStep_exec_inv {i : Instr} (hs : s.Inv) (h : exec i s = .next t) : (beginNextStep t).Inv :=
  beginNextStep_inv (exec_inv hs.inRange hs.haltConsistent.1 h)

theorem SequencerEdge.inv (h : SequencerEdge p s t) (hs : s.Inv) : t.Inv := by
  have not_halted_exec (hp : s.phase = .exec) : s.halted = false := hs.not_halted (by simp [hp])
  cases h with
  | latch hf hpc =>
    have hh : s.halted = false := hf.elim (fun hp => hs.not_halted (by simp [hp])) (fun hi => hi.2.2)
    exact latch_inv hs hh hpc
  | fetchRange => exact takeFetchRange_inv hs.inRange
  | command ha _ hc => exact hc.inv hs ha
  | keep => exact hs
  | waitIn hp hd => exact waitAt_inv hs (not_halted_exec hp) ⟨hs.latched (.inl hp), hd⟩
  | waitOut hp hd => exact waitAt_inv hs (not_halted_exec hp) ⟨hs.latched (.inl hp), hd⟩
  | commit _ _ _ hu => exact beginNextStep_exec_inv hs hu
  | undecodable => exact takeIllegal_inv hs.inRange
  | commitInp _ _ hu => exact beginNextStep_exec_inv hs hu
  | commitOut _ _ hu => exact beginNextStep_exec_inv hs hu

/-- The commit under RUN of a step that did not halt begins the next one, so it does not end in IDLE (R132). -/
theorem beginNextStep_run_of_idle (h : (beginNextStep s).Inv) (hp : (beginNextStep s).phase = .idle) :
    (beginNextStep s).run = false := by
  by_cases hg : s.halted = false ∧ s.run = true
  · simp [hg] at hp
  · cases hh : s.halted with
    | true => exact (h.haltConsistent.2 (by simpa using hh)).2
    | false => simpa [hh] using hg

/-- No edge leaves RUN set in IDLE (R132, R134, log 7). -/
theorem SequencerEdge.run_of_idle (h : SequencerEdge p s t) (ht : t.Inv) (hs : s.phase = .idle → s.run = false)
    (hp : t.phase = .idle) : t.run = false := by
  cases h with
  | latch => simp at hp
  | fetchRange => simp
  | command ha _ hc =>
    obtain ⟨-, hr⟩ | hf := hc.phase_cases ha
    · exact hr
    · simp [hf] at hp
  | keep => exact hs hp
  | waitIn => simp at hp
  | waitOut => simp at hp
  | commit => exact beginNextStep_run_of_idle ht hp
  | undecodable => simp
  | commitInp => exact beginNextStep_run_of_idle ht hp
  | commitOut => exact beginNextStep_run_of_idle ht hp

/-- After the commit of an instruction the step is over: IDLE, or FETCH of the next one (R34, R134). -/
theorem beginNextStep_exec_phase {i : Instr} (h : exec i s = .next t) :
    (beginNextStep t).phase = .idle ∨ (beginNextStep t).phase = .fetch := by
  rw [beginNextStep_phase, exec_phase h]
  split
  · exact .inr rfl
  · exact .inl rfl

/-- An edge changes PHASE and IR only, or comes to the beginning of a step or to IDLE (R121, R134). -/
theorem SequencerEdge.frame_or_boundary (h : SequencerEdge p s t) :
    (∃ ph w, t = { s with phase := ph, ir := w }) ∨ t.phase = .idle ∨ t.phase = .fetch := by
  cases h with
  | latch => exact .inl ⟨_, _, rfl⟩
  | fetchRange => exact .inr (.inl rfl)
  | command ha _ hc => exact .inr ((hc.phase_cases ha).imp_left And.left)
  | keep => exact .inl ⟨_, _, rfl⟩
  | waitIn => exact .inl ⟨_, _, rfl⟩
  | waitOut => exact .inl ⟨_, _, rfl⟩
  | commit _ _ _ hu => exact .inr (beginNextStep_exec_phase hu)
  | undecodable => exact .inr (.inl rfl)
  | commitInp _ _ hu => exact .inr (beginNextStep_exec_phase hu)
  | commitOut _ _ hu => exact .inr (beginNextStep_exec_phase hu)

end

/-- Settles O41, by the cases of an edge. -/
theorem clockEdgeKeepsInvariant : Obligations.ClockEdgeKeepsInvariant := by
  intro p s t hs h
  obtain ⟨-, rfl⟩ | ⟨-, h⟩ := clockEdge_cases h
  · exact ⟨machineReset_inv hs.inRange.1, fun _ _ => rfl⟩
  · exact ⟨h.inv hs, h.run_of_idle (h.inv hs)⟩

/-- Settles O45: an edge that commits nothing changes PHASE and IR only, which the host's views do not read. -/
theorem nothingVisibleBeforeCommit : Obligations.NothingVisibleBeforeCommit := by
  intro p s t hr h hp
  obtain ⟨ph, w, rfl⟩ | hb := (sequencerEdge_of_clockEdge hr h).frame_or_boundary
  · exact ⟨rfl, fun _ => ⟨rfl, rfl, rfl, rfl, rfl, rfl⟩⟩
  · obtain hb | hb := hb <;> simp [hb] at hp

end Sys2Proof.Machine
end

section
/-! Who writes NEG, ACC, memory and HALTED, over every clock edge (R22, R24, R25, R31). -/

namespace Sys2Proof.Machine

/-- Settles O55: of the edge's cases only a host command and an EXEC commit can change NEG. -/
theorem onlySubHostAndResetWriteNeg : Obligations.OnlySubHostAndResetWriteNeg := by
  intro p s t h hne
  obtain ⟨hr, -⟩ | ⟨-, h⟩ := clockEdge_cases h
  · exact .inl hr
  cases h
  case command c ha hc ht =>
    obtain hkeep | ⟨addr, data, rfl⟩ := ht.neg_cases
    · exact absurd hkeep hne
    · exact .inr (.inl ⟨ha, addr, data, hc⟩)
  case commit i u hp hd _ hu =>
    obtain hkeep | ⟨a, rfl⟩ := exec_neg hu
    · exact absurd (by simpa using hkeep) hne
    · exact .inr (.inr ⟨hp, a, hd⟩)
  case commitInp u _ _ hu => exact absurd (by simpa using exec_neg hu) hne
  case commitOut u _ _ hu => exact absurd (by simpa using exec_neg hu) hne
  all_goals exact absurd rfl hne

/-- Settles O56: as for NEG, with INP's commit in WAIT_IN. -/
theorem onlyListedWritersChangeAcc : Obligations.OnlyListedWritersChangeAcc := by
  intro p s t h hne
  obtain ⟨hr, -⟩ | ⟨-, h⟩ := clockEdge_cases h
  · exact .inl hr
  cases h
  case command c ha hc ht =>
    obtain hkeep | ⟨addr, data, rfl⟩ := ht.acc_cases
    · exact absurd hkeep hne
    · exact .inr (.inl ⟨ha, addr, data, hc⟩)
  case commit i u hp hd hi hu =>
    obtain hkeep | ⟨a, hw⟩ | rfl := exec_acc hu
    · exact absurd (by simpa using hkeep) hne
    · exact .inr (.inr (.inl ⟨hp, a, by simpa [hd] using hw⟩))
    · cases hi
  case commitInp u hp ho hu => exact .inr (.inr (.inr ⟨hp, Option.isSome_iff_exists.mp ho⟩))
  case commitOut u _ _ hu => exact absurd (by simpa using exec_acc hu) hne
  all_goals exact absurd rfl hne

/-- Settles O57: as for NEG, with each writer's cell. -/
theorem onlyListedWritersChangeMemory : Obligations.OnlyListedWritersChangeMemory := by
  intro p s t b h hne
  obtain ⟨-, rfl⟩ | ⟨hr, h⟩ := clockEdge_cases h
  · exact absurd rfl hne
  refine ⟨hr, ?_⟩
  cases h
  case command c ha hc ht =>
    obtain hkeep | rfl | ⟨data, rfl, hb⟩ := ht.read_cases b
    · exact absurd hkeep hne
    · exact .inl ⟨ha, hc⟩
    · exact .inr (.inl ⟨ha, data, hc, hb⟩)
  case commit i u hp hd _ hu =>
    obtain hkeep | ⟨a, rfl, hm⟩ := exec_mem hu
    · exact absurd (by simp [hkeep]) hne
    · refine .inr (.inr ⟨hp, a, hd, ?_⟩)
      by_contra hb
      have hread := Memory.read_write_other s.mem s.acc (show b ≠ a from hb)
      exact hne (by simpa [hm] using hread)
  case commitInp u _ _ hu =>
    have hkeep : u.mem = s.mem := by simpa using exec_mem hu
    exact absurd (by simp [hkeep]) hne
  case commitOut u _ _ hu =>
    have hkeep : u.mem = s.mem := by simpa using exec_mem hu
    exact absurd (by simp [hkeep]) hne
  all_goals exact absurd rfl hne

/-- An edge without `rst` keeps HALTED, or sets it by the fetch-range fault, an illegal word or HALT (R126 to R129). -/
theorem SequencerEdge.halted_cases {p : HostPins} {s t : State} (h : SequencerEdge p s t) :
    t.halted = s.halted ∨ (t.halted = true ∧
      ((s.Fetches ∧ 100 ≤ s.pc.toNat ∧ t.haltCause = .fetchRange) ∨
       (s.phase = .exec ∧ isIllegalWord s.ir = true ∧ t.haltCause = .illegal) ∨
       (s.phase = .exec ∧ s.ir.toNat ≤ 99 ∧ t.haltCause = .haltInstr))) := by
  cases h
  case fetchRange hs hf =>
    have hpc : 100 ≤ s.pc.toNat := Nat.le_of_not_lt (of_decide_eq_false hf)
    exact .inr ⟨rfl, .inl ⟨hs, hpc, rfl⟩⟩
  case undecodable hp hd =>
    obtain ⟨e, hd⟩ := hd
    exact .inr ⟨rfl, .inr (.inl ⟨hp, isIllegalWord_of_decode_error hd, rfl⟩)⟩
  case command ht => exact .inl ht.halted_eq
  case commit i u hp hd _ hu =>
    rw [beginNextStep_halted, beginNextStep_haltCause]
    obtain hkeep | ⟨hh, ⟨⟨x, rfl⟩, hc⟩ | ⟨hi, hc⟩⟩ := exec_halted hu
    · exact .inl hkeep
    · exact .inr ⟨hh, .inr (.inr ⟨hp, decode_halt_le hd, hc⟩)⟩
    · exact .inr ⟨hh, .inr (.inl ⟨hp, isIllegalWord_of_decode hd hi, hc⟩)⟩
  case commitInp u _ _ hu => exact .inl (by simpa [Instr.isIllegal] using exec_halted hu)
  case commitOut u _ _ hu => exact .inl (by simpa [Instr.isIllegal] using exec_halted hu)
  all_goals exact .inl rfl

/-- Settles O58: an edge without `rst` keeps HALTED or sets it by one of the three causes. -/
theorem onlyResetClearsHalted : Obligations.OnlyResetClearsHalted := by
  intro p s t h
  obtain ⟨hr, rfl⟩ | ⟨hr, h⟩ := clockEdge_cases h
  · exact ⟨fun _ _ => hr, fun _ ht => by simp at ht⟩
  obtain hkeep | ⟨hset, hw⟩ := h.halted_cases
  · exact ⟨fun hs ht => by simp [hkeep, hs] at ht, fun hs ht => by simp [hkeep, hs] at ht⟩
  · refine ⟨fun _ ht => by simp [hset] at ht, fun _ _ => ⟨hr, hw.imp_left fun ⟨hf, hpc⟩ => ⟨?_, hpc⟩⟩⟩
    exact hf.imp_right fun ⟨hp, hrun, _⟩ => ⟨hp, hrun⟩

end Sys2Proof.Machine
end

section
/-! The pins an edge depends on, the accepted host write, and the output views (R41 to R44, R245, R279). -/

namespace Sys2Proof.Machine

section
variable {p q : HostPins} {s : State}

/-- With `rst` low an edge depends on the pins in IDLE alone (R41). -/
theorem clockEdge_congr (hp : p.rst = false) (hq : q.rst = false) (h : idleEdge p s = idleEdge q s) :
    clockEdge p s = clockEdge q s := by
  simp [clockEdge, hp, hq, h]

/-- With `rst` low an edge depends on the pins through the command that takes effect (R41, R245). -/
theorem clockEdge_congr_command (hp : p.rst = false) (hq : q.rst = false) (h : p.command = q.command) :
    clockEdge p s = clockEdge q s :=
  clockEdge_congr hp hq (by simp only [idleEdge, h])

theorem idleEdge_of_not_accepted (ha : acceptsCommand s = false) : idleEdge p s = .next s := by
  unfold idleEdge
  split
  · rw [hostCommand_of_not_accepted ha]
  · rfl

/-- An accepted command at a clock edge. -/
theorem clockEdge_of_command {c : HostCommand} (hr : p.rst = false) (ha : acceptsCommand s = true)
    (hc : p.command = some c) : clockEdge p s = .next (applyCommand c s) := by
  obtain ⟨hp, hrun⟩ := acceptsCommand_iff.mp ha
  simp [clockEdge, hr, hp, hrun, idleEdge, hc, hostCommand, ha]

/-- A host write is the command when neither `rst` nor `mem_clr` comes before it (R245). -/
theorem command_of_hwEn (hm : p.memClr = false) (hw : p.hwEn = true) :
    p.command = some (.write (HostSelect.ofBits p.hwSel) p.hwAddr p.hwData) := by
  simp [HostPins.command, hm, hw]

/-- A host write of memory changes memory only, and in it the one cell (R42, R43). -/
theorem hostWriteMem_spec (hm : Memory.wf s.mem = true) (addr : BitVec 7) (data : Word) :
    hostWriteMem addr data s = { s with mem := (hostWriteMem addr data s).mem } ∧
    (∀ b, b ≠ addr.toNat → Memory.read (hostWriteMem addr data s).mem b = Memory.read s.mem b) ∧
    (addr.toNat ≤ 99 → (Memory.read (hostWriteMem addr data s).mem addr.toNat).toNat = data.toNat % 1000) ∧
    (100 ≤ addr.toNat → hostWriteMem addr data s = s) := by
  obtain h | h := Nat.lt_or_ge addr.toNat 100
  · rw [hostWriteMem_of_lt h]
    refine ⟨rfl, fun b hb => Memory.read_write_other s.mem data hb, fun _ => ?_, fun h' => by omega⟩
    rw [writeCell_mem, Memory.read_write hm, if_pos rfl, norm_toNat]
  · rw [hostWriteMem_of_le h]
    exact ⟨rfl, fun _ _ => rfl, fun h' => by omega, fun _ => rfl⟩

end

theorem HaltCause.code_inj {c d : HaltCause} : c.code = d.code ↔ c = d := by
  cases c <;> cases d <;> decide

/-- Settles O49: the edge is the host write, and each selection writes its one thing. -/
theorem hostWriteWritesOneThing : Obligations.HostWriteWritesOneThing := by
  intro p s hm hr hclr hw ha
  refine ⟨_, clockEdge_of_command hr ha (command_of_hwEn hclr hw), fun hsel => ?_, fun hsel => ?_, fun hsel => ?_,
    fun hsel => ?_⟩
  all_goals rw [hsel]
  · exact hostWriteMem_spec hm p.hwAddr p.hwData
  · exact ⟨rfl, norm_toNat p.hwData⟩
  · exact ⟨rfl, norm_toNat p.hwData⟩
  · exact ⟨rfl, rfl⟩

/-- Settles O51: only IDLE reads the pins, and there a command that is not accepted does nothing. -/
theorem busyEngineIgnoresCommands : Obligations.BusyEngineIgnoresCommands := by
  intro p s hr ha
  exact clockEdge_congr hr rfl ((idleEdge_of_not_accepted ha).trans (idleEdge_of_not_accepted ha).symm)

/-- Settles O52: lowering the later commands leaves the command that takes effect. -/
theorem commandPriority : Obligations.CommandPriority := by
  intro p s
  refine ⟨fun hr => ?_, fun hr hm => ?_, fun hr hm hw => ?_, fun hr hm hw hrun => ?_⟩
  · rw [clockEdge_of_rst hr, clockEdge_of_rst rfl]
  · exact clockEdge_congr_command hr rfl (by simp [HostPins.command, hm])
  · exact clockEdge_congr_command hr hr (by simp [HostPins.command, hw])
  · exact clockEdge_congr_command hr rfl (by simp [HostPins.command, HostPins.quiet, hm, hw, hrun])

/-- Settles O53: each output is a register or a test of PHASE, and the codes of the causes differ. -/
theorem outputsAreViews : Obligations.OutputsAreViews := by
  intro p s
  have hread (h : p.hrAddr.toNat ≤ 99) : (engineOutputs p s).hrData = Memory.read s.mem p.hrAddr.toNat :=
    if_pos (Nat.lt_succ_of_le h)
  exact ⟨hread, rfl, rfl, rfl, rfl, rfl, decide_eq_true_iff, decide_eq_true_iff, decide_eq_true_iff, fun h => if_pos h,
    HaltCause.code_inj (d := .none), HaltCause.code_inj (d := .haltInstr), HaltCause.code_inj (d := .illegal),
    HaltCause.code_inj (d := .fetchRange)⟩

end Sys2Proof.Machine
end

section
/-! The canonical form of memory determines it, and every content has one (R21, log 1). -/

namespace Sys2Proof.Machine

theorem Memory.wfFrom_cons {lo a : Nat} {v : Word} {m : Memory} :
    Memory.wfFrom lo ((a, v) :: m) = true ↔
      lo ≤ a ∧ a < 100 ∧ v.IsCell ∧ v ≠ 0 ∧ Memory.wfFrom (a + 1) m = true := by
  simp only [Memory.wfFrom, Bool.and_eq_true, decide_eq_true_eq, and_assoc]
  rfl

theorem Memory.read_cons_same (a : Nat) (v : Word) (m : Memory) : Memory.read ((a, v) :: m) a = v := if_pos rfl

theorem Memory.read_cons_of_ne {a b : Nat} (v : Word) (m : Memory) (h : b ≠ a) :
    Memory.read ((a, v) :: m) b = Memory.read m b := if_neg h

theorem Memory.read_head_ne_zero {lo a : Nat} {v : Word} {m : Memory} (h : Memory.wfFrom lo ((a, v) :: m) = true) :
    Memory.read ((a, v) :: m) a ≠ 0 := by
  obtain ⟨-, -, -, hv, -⟩ := Memory.wfFrom_cons.mp h
  rwa [Memory.read_cons_same]

/-- A first address is no lower than the first address of a memory that reads alike: below that, every read is 0. -/
theorem Memory.head_le {lo lo' a b : Nat} {v w : Word} {m m' : Memory} (h : Memory.wfFrom lo ((a, v) :: m) = true)
    (h' : Memory.wfFrom lo' ((b, w) :: m') = true)
    (heq : ∀ x, Memory.read ((a, v) :: m) x = Memory.read ((b, w) :: m') x) : b ≤ a := by
  obtain ⟨-, hb, hw, hw0, hm'⟩ := Memory.wfFrom_cons.mp h'
  have hfrom : Memory.wfFrom b ((b, w) :: m') = true := Memory.wfFrom_cons.mpr ⟨le_rfl, hb, hw, hw0, hm'⟩
  by_contra hlt
  exact Memory.read_head_ne_zero h ((heq a).trans (Memory.read_below hfrom (Nat.lt_of_not_le hlt)))

/-- Where the first entries agree, the rests read alike too. -/
theorem Memory.read_tail_eq {a : Nat} {v : Word} {m m' : Memory} (h : Memory.wfFrom (a + 1) m = true)
    (h' : Memory.wfFrom (a + 1) m' = true) (heq : ∀ x, Memory.read ((a, v) :: m) x = Memory.read ((a, v) :: m') x)
    (x : Nat) : Memory.read m x = Memory.read m' x := by
  by_cases hx : x = a
  · subst hx
    rw [Memory.read_below h (Nat.lt_succ_self x), Memory.read_below h' (Nat.lt_succ_self x)]
  · simpa [Memory.read_cons_of_ne v _ hx] using heq x

theorem Memory.ext_of_wfFrom {lo : Nat} {m m' : Memory} (h : Memory.wfFrom lo m = true)
    (h' : Memory.wfFrom lo m' = true) (heq : ∀ x, Memory.read m x = Memory.read m' x) : m = m' := by
  induction m generalizing lo m' with
  | nil =>
    cases m' with
    | nil => rfl
    | cons e' m' => exact absurd (heq e'.1).symm (Memory.read_head_ne_zero h')
  | cons e m ih =>
    obtain ⟨a, v⟩ := e
    cases m' with
    | nil => exact absurd (heq a) (Memory.read_head_ne_zero h)
    | cons e' m' =>
      obtain ⟨b, w⟩ := e'
      obtain rfl : a = b := le_antisymm (Memory.head_le h' h fun x => (heq x).symm) (Memory.head_le h h' heq)
      obtain rfl : v = w := by simpa [Memory.read_cons_same] using heq a
      obtain ⟨-, -, -, -, hm⟩ := Memory.wfFrom_cons.mp h
      obtain ⟨-, -, -, -, hm'⟩ := Memory.wfFrom_cons.mp h'
      rw [ih hm hm' (Memory.read_tail_eq hm hm' heq)]

/-- Writing the first `n` cells one after another gives any content of them. -/
theorem Memory.exists_content {f : Nat → Word} (hf : ∀ a, (f a).IsCell) {n : Nat} (hn : n ≤ 100) :
    ∃ m, Memory.wf m = true ∧ ∀ a < n, Memory.read m a = f a := by
  induction n with
  | zero => exact ⟨[], rfl, fun a ha => absurd ha (Nat.not_lt_zero a)⟩
  | succ n ih =>
    obtain ⟨m, hm, hread⟩ := ih (by omega)
    refine ⟨Memory.write m n (f n), Memory.wf_write hm hn (f n), fun a ha => ?_⟩
    rw [Memory.read_write hm, norm_of_isCell (hf n)]
    split
    case isTrue han => rw [han]
    case isFalse hne => exact hread a (by omega)

/-- Settles O42, by extensionality of the canonical form and by writing the cells in turn. -/
theorem canonicalMemoryIsUnique : Obligations.CanonicalMemoryIsUnique :=
  ⟨fun _ _ hm hm' => Memory.ext_of_wfFrom hm hm', fun _ hf => Memory.exists_content hf le_rfl⟩

end Sys2Proof.Machine
end

section
/-! The accessed and the stored cell: who changes which, the stop outside 0..99, and the fetch after a store (R61, R64,
R66, R68, R73). -/

namespace Sys2Proof.Machine

/-- Settles O25: memory is STA's alone, and a write leaves every other cell. -/
theorem onlyTheStoredCellChanges : Obligations.OnlyTheStoredCellChanges := by
  intro i s t h b hb
  obtain hkeep | ⟨a, rfl, hm⟩ := exec_mem h
  · rw [hkeep]
  · have hne : b ≠ a := fun hba => hb (congrArg some hba.symm)
    rw [hm, Memory.read_write_other s.mem s.acc hne]

theorem withCell_of_le {a : Nat} (h : 100 ≤ a) (act : Nat → State) : withCell a act = .fault (.noSuchCell a) :=
  if_neg (Nat.not_lt.mpr h)

/-- A decoded instruction that accesses a cell has an operand in 0..99 (R61, R90). -/
theorem operand_lt_of_decode {v : Word} {i : Instr} {a : Nat} (h : decode v = .ok i)
    (hi : i = .add a ∨ i = .sub a ∨ i = .sta a ∨ i = .lda a) : a < 100 := by
  obtain ⟨hwf, -⟩ := decode_ok h
  obtain rfl | rfl | rfl | rfl := hi <;> exact of_decide_eq_true hwf

/-- Settles O26: the access itself stops, and a decoded operand is below 100, so it is no reason to stop. -/
theorem operandOutsideMemoryStops : Obligations.OperandOutsideMemoryStops := by
  refine ⟨fun a s ha i hi => ?_, fun v i s a hd h => ?_⟩
  · simp only [List.mem_cons, List.not_mem_nil, or_false] at hi
    obtain rfl | rfl | rfl | rfl := hi <;> simp only [exec, execAdd, execSub, execSta, execLda, withCell_of_le ha]
  · obtain ⟨b, hb, hi, -⟩ | ⟨-, -, hf⟩ | ⟨-, -, hf⟩ := exec_fault h
    · exact absurd (operand_lt_of_decode hd hi) (Nat.not_lt.mpr hb)
    · cases hf
    · cases hf

theorem step_of_atStepStart {s : State} (hs : s.AtStepStart) : step s = fetchAndExecute s := by
  obtain ⟨hh, hp | hp⟩ := hs <;> simp [step, executeOne, hh, hp]

/-- At its start a step is the instruction that the cell at PC decodes to, executed with that cell latched (R120, R122,
R125). -/
theorem step_of_decode_read {s : State} {v : Word} {i : Instr} (hs : s.AtStepStart) (hpc : s.pc.toNat < 100)
    (hv : Memory.read s.mem s.pc.toNat = v) (hd : decode v = .ok i) :
    step s = exec i { s with ir := v, phase := .exec } := by
  subst hv
  rw [step_of_atStepStart hs, fetchAndExecute, if_pos (show fetchable s = true from decide_eq_true hpc)]
  exact executeLatched_of_decode (s := latch s) hd

/-- The cell that STA stores to reads as ACC (R172, R173). -/
theorem exec_sta_read {a : Nat} {s t : State} (ha : a < 100) (hr : s.InRange) (h : exec (.sta a) s = .next t) :
    Memory.read t.mem a = s.acc := by
  obtain ⟨hwf, hacc, -⟩ := hr
  rw [exec_sta ha] at h
  cases h
  simp [Memory.read_write hwf, norm_of_isCell hacc]

/-- Settles O36: STA comes to a step boundary, and the step from there latches the ACC that the cell now reads as. -/
theorem storeIsSeenByNextFetch : Obligations.StoreIsSeenByNextFetch := by
  intro a s t i ha hr h hd hh
  have hpc : (BitVec.ofNat 10 a).toNat = a := Nat.mod_eq_of_lt (by omega)
  have hread : Memory.read t.mem (BitVec.ofNat 10 a).toNat = s.acc := by rw [hpc, exec_sta_read ha hr h]
  have hidle : t.phase = .idle := exec_phase h
  exact step_of_decode_read ⟨hh, .inl hidle⟩ (hpc.trans_lt ha) hread hd

end Sys2Proof.Machine
end

section
/-! Decoding and encoding as inverses of each other, and the opcode table's row of an instruction (R90, R92, R94, R95,
R99, R100). -/

namespace Sys2Proof

open Sys2Proof.Laws.EncodesToCell (cellOf_toNat)

theorem opcodeOf_cellOf {op opd : Nat} (hop : op ≤ 9) (hopd : opd < 100) : opcodeOf (cellOf op opd) = op := by
  rw [opcodeOf_eq_div, cellOf_toNat hop hopd]
  omega

theorem operandOf_cellOf {op opd : Nat} (hop : op ≤ 9) (hopd : opd < 100) : operandOf (cellOf op opd) = opd := by
  rw [operandOf_eq_mod, cellOf_toNat hop hopd]
  omega

/-- Opcode 9's second decoding is an exact comparison: from 3 on the operand names no instruction (R95). -/
theorem decodeOpcode9_of_ge {x : Nat} (hx : 3 ≤ x) : decodeOpcode9 x = .illegal903 x := by
  match x, hx with
  | _ + 3, _ => rfl

theorem illegal903_wellFormed_iff {x : Nat} : (Instr.illegal903 x).wellFormed = true ↔ 3 ≤ x ∧ x < 100 := by
  simp [Instr.wellFormed, operandInRange]

/-- Settles O2: a row's opcode and operand are read back from its cell value, and opcode 9 is told apart by its
operand. -/
theorem decodeInvertsEncode : Obligations.DecodeInvertsEncode := by
  intro i hi
  cases i with
  | halt x | add x | sub x | sta x | illegalOpcode4 x | lda x | bra x | brz x | brp x =>
    have hx : x < 100 := of_decide_eq_true hi
    simp [encode, decode, opcodeOf_cellOf, operandOf_cellOf, hx]
  | illegal900 => decide
  | inp => decide
  | out => decide
  | illegal903 x =>
    obtain ⟨h3, hx⟩ := illegal903_wellFormed_iff.mp hi
    simp [encode, decode, opcodeOf_cellOf, operandOf_cellOf, hx, decodeOpcode9_of_ge h3]

theorem decode_of_ge {v : Word} (h : 1000 ≤ v.toNat) : decode v = .error (.opcodeTen (v.toNat - 1000)) := by
  have hv : v.toNat < 1024 := v.isLt
  have hop : opcodeOf v = 10 := by
    rw [opcodeOf_eq_div]
    omega
  simp only [decode, operandOf, hop]

theorem exists_decode_iff {v : Word} : (∃ i, decode v = .ok i) ↔ v.toNat ≤ 999 := by
  constructor
  · rintro ⟨i, hi⟩
    by_contra hv
    rw [decode_of_ge (by omega)] at hi
    cases hi
  · intro hv
    cases hd : decode v with
    | ok i => exact ⟨i, rfl⟩
    | error e =>
      have := decode_error hd
      omega

/-- Settles O3: `decode_ok` for the words that decode; the others are those of opcode 10. -/
theorem encodeInvertsDecode : Obligations.EncodeInvertsDecode :=
  ⟨fun _ _ => decode_ok, fun _ => exists_decode_iff, fun _ => decode_of_ge⟩

/-- The row of the opcode table that an instruction is of (R94, R99). -/
def Instr.tableRow : Instr → TableRow
  | .halt _ => ⟨"HALT", 0, 99⟩
  | .add _ => ⟨"ADD", 100, 199⟩
  | .sub _ => ⟨"SUB", 200, 299⟩
  | .sta _ => ⟨"STA", 300, 399⟩
  | .illegalOpcode4 _ => ⟨"ILLEGAL", 400, 499⟩
  | .lda _ => ⟨"LDA", 500, 599⟩
  | .bra _ => ⟨"BRA", 600, 699⟩
  | .brz _ => ⟨"BRZ", 700, 799⟩
  | .brp _ => ⟨"BRP", 800, 899⟩
  | .illegal900 => ⟨"ILLEGAL", 900, 900⟩
  | .inp => ⟨"INP", 901, 901⟩
  | .out => ⟨"OUT", 902, 902⟩
  | .illegal903 _ => ⟨"ILLEGAL", 903, 999⟩

theorem Instr.tableRow_mem (i : Instr) : i.tableRow ∈ opcodeTable := by
  cases i <;> simp [Instr.tableRow, opcodeTable]

theorem Instr.tableRow_mnemonic (i : Instr) : i.tableRow.mnemonic = i.mnemonic := by
  cases i <;> rfl

theorem TableRow.covers_iff {r : TableRow} {v : Nat} : r.covers v = true ↔ r.lo ≤ v ∧ v ≤ r.hi := by
  simp [TableRow.covers]

theorem encode_mem_tableRow {i : Instr} (hi : i.wellFormed = true) :
    i.tableRow.lo ≤ (encode i).toNat ∧ (encode i).toNat ≤ i.tableRow.hi := by
  cases i with
  | halt x | add x | sub x | sta x | illegalOpcode4 x | lda x | bra x | brz x | brp x =>
    have hx : x < 100 := of_decide_eq_true hi
    simp (disch := omega) only [encode, Instr.tableRow, cellOf_toNat]
    omega
  | illegal900 => decide
  | inp => decide
  | out => decide
  | illegal903 x =>
    obtain ⟨h3, hx⟩ := illegal903_wellFormed_iff.mp hi
    simp (disch := omega) only [encode, Instr.tableRow, cellOf_toNat]
    omega

/-- A word lies in the range of the row it decodes to (R99). -/
theorem mem_tableRow_of_decode {v : Word} {i : Instr} (h : decode v = .ok i) :
    i.tableRow.lo ≤ v.toNat ∧ v.toNat ≤ i.tableRow.hi := by
  obtain ⟨hwf, rfl⟩ := decode_ok h
  exact encode_mem_tableRow hwf

/-- No two rows of the opcode table overlap (R99). -/
theorem opcodeTable_disjoint : ∀ r ∈ opcodeTable, ∀ r' ∈ opcodeTable, r.lo ≤ r'.hi → r'.lo ≤ r.hi → r' = r := by
  decide

theorem covers_unique {r r' : TableRow} {v : Nat} (hr : r ∈ opcodeTable) (hr' : r' ∈ opcodeTable)
    (h : r.covers v = true) (h' : r'.covers v = true) : r' = r := by
  obtain ⟨hlo, hhi⟩ := TableRow.covers_iff.mp h
  obtain ⟨hlo', hhi'⟩ := TableRow.covers_iff.mp h'
  exact opcodeTable_disjoint r hr r' hr' (hlo.trans hhi') (hlo'.trans hhi)

/-- Settles O5: the row of the decoded instruction covers the word, and rows do not overlap. -/
theorem tableRowsPartitionCellValues : Obligations.TableRowsPartitionCellValues := by
  intro v hv
  obtain ⟨i, hd⟩ := exists_decode_iff.mpr hv
  have hc : i.tableRow.covers v.toNat = true := TableRow.covers_iff.mpr (mem_tableRow_of_decode hd)
  exact ⟨i.tableRow, i.tableRow_mem, hc, fun r' hr' hc' => covers_unique i.tableRow_mem hr' hc hc',
    i, hd, i.tableRow_mnemonic.symm⟩

/-- Settles O1, by evaluating the decoder on the ten words. -/
theorem sampleWordsDecode : Obligations.SampleWordsDecode := by
  unfold Obligations.SampleWordsDecode
  decide

/-- Settles O4: the opcode is the quotient and the operand the remainder on every word. -/
theorem thresholdDecoderIsDivMod : Obligations.ThresholdDecoderIsDivMod := by
  intro v
  have hv : v.toNat < 1024 := v.isLt
  rw [opcodeOf_eq_div, operandOf_eq_mod]
  omega

/-- One word alone decodes to a well-formed instruction: its encoding (R90, R94). -/
theorem decode_eq_ok_iff {v : Word} {i : Instr} (hi : i.wellFormed = true) :
    decode v = .ok i ↔ v.toNat = (encode i).toNat := by
  constructor
  · intro h
    rw [(decode_ok h).2]
  · intro h
    rw [BitVec.eq_of_toNat_eq h]
    exact decodeInvertsEncode i hi

theorem isIllegalWord_of_opcode9 {v : Word} (hop : opcodeOf v = 9) (hinp : v.toNat ≠ 901) (hout : v.toNat ≠ 902) :
    isIllegalWord v = true := by
  rw [opcodeOf_eq_div] at hop
  rw [isIllegalWord_iff]
  omega

/-- Settles O6: INP and OUT are decoded from their encodings alone, and R96's ranges hold the rest of opcode 9. -/
theorem opcode9ComparesWholeOperand : Obligations.Opcode9ComparesWholeOperand :=
  ⟨fun _ => decode_eq_ok_iff (i := .inp) rfl, fun _ => decode_eq_ok_iff (i := .out) rfl,
    fun _ => isIllegalWord_of_opcode9, by decide, by decide⟩

/-- A word of R96's ranges that decodes comes to one of the illegal rows: no other row meets those ranges. -/
theorem isIllegal_of_decode {v : Word} {i : Instr} (h : decode v = .ok i) (hv : isIllegalWord v = true) :
    i.isIllegal = true := by
  rw [isIllegalWord_iff] at hv
  have hrow := mem_tableRow_of_decode h
  cases i with
  | illegalOpcode4 x | illegal900 | illegal903 x => rfl
  | _ =>
    simp only [Instr.tableRow] at hrow
    omega

end Sys2Proof
end

section
/-! The illegal-instruction fault of a latched word (R96, R124, R127). -/

namespace Sys2Proof.Machine

theorem step_of_exec_phase {s : State} (hh : s.halted = false) (hp : s.phase = .exec) : step s = executeLatched s := by
  simp [step, executeOne, hh, hp]

/-- A latched word of R96's ranges takes the fault, by an illegal row's arm or for want of an instruction (R124). -/
theorem executeLatched_of_isIllegalWord {s : State} (h : isIllegalWord s.ir = true) :
    executeLatched s = .next (takeIllegal s) := by
  cases hd : decode s.ir with
  | ok i => rw [executeLatched_of_decode hd, exec_illegal (isIllegal_of_decode hd h)]
  | error e => simp only [executeLatched, hd]

theorem exists_decode_of_not_isIllegalWord {v : Word} (h : isIllegalWord v = false) :
    ∃ i, decode v = .ok i ∧ i.isIllegal = false := by
  cases hd : decode v with
  | ok i =>
    refine ⟨i, rfl, eq_false_of_ne_true fun hi => ?_⟩
    simp [isIllegalWord_of_decode hd hi] at h
  | error e => simp [isIllegalWord_of_decode_error hd] at h

/-- HALT_CAUSE is kept, or set by HALT or an illegal row (R126, R127). -/
theorem exec_haltCause {i : Instr} {s t : State} (h : exec i s = .next t) :
    t.haltCause = s.haltCause ∨ ((∃ x, i = .halt x) ∧ t.haltCause = .haltInstr) ∨
    (i.isIllegal = true ∧ t.haltCause = .illegal) := by
  cases execEffect_of_exec h
  case halt x => exact .inr (.inl ⟨⟨x, rfl⟩, rfl⟩)
  case illegal hi => exact .inr (.inr ⟨hi, rfl⟩)
  all_goals exact .inl rfl

/-- Settles O24: R96's words take the fault, and an instruction of another row does not bring its cause. -/
theorem illegalEncodingsAreExactlyTheThreeRanges : Obligations.IllegalEncodingsAreExactlyTheThreeRanges := by
  intro s hh hp
  rw [step_of_exec_phase hh hp]
  refine ⟨fun hill => ?_, fun hleg => ?_⟩
  · exact ⟨takeIllegal s, executeLatched_of_isIllegalWord hill, takeIllegal_halts s, inc_toNat s.pc, rfl, rfl,
      fun _ => rfl, rfl, rfl, rfl⟩
  · obtain ⟨i, hd, hi⟩ := exists_decode_of_not_isIllegalWord hleg
    refine ⟨i, hd, hi, fun t ht hcause => ?_⟩
    rw [executeLatched_of_decode hd] at ht
    obtain hkeep | ⟨-, hhalt⟩ | ⟨hill, -⟩ := exec_haltCause ht
    · exact hkeep.symm.trans hcause
    · exact absurd (hhalt.symm.trans hcause) (by decide)
    · exact absurd (hi.symm.trans hill) (by decide)

end Sys2Proof.Machine
end

section
/-! HALT and the two faults as next states, the decoded instruction of a step, and the commands that begin one (R120,
R126 to R132). -/

namespace Sys2Proof.Machine

/-- HALT and an illegal row enter the halted state after the advance, and change nothing else (R126, R127, R132). -/
theorem takeHalt_advance_frame (c : HaltCause) (s : State) :
    (takeHalt c (advance s)).Halts c ∧ (takeHalt c (advance s)).pc.toNat = (s.pc.toNat + 1) % 1000 ∧
    (takeHalt c (advance s)).acc = s.acc ∧ (takeHalt c (advance s)).neg = s.neg ∧
    s.MemoryKept (takeHalt c (advance s)) ∧ s.PortsKept (takeHalt c (advance s)) :=
  ⟨takeHalt_halts c (advance s), inc_toNat s.pc, rfl, rfl, takeHalt_keeps c (advance s)⟩

/-- Settles O22, by the advance and the halted state. -/
theorem haltStopsTheEngine : Obligations.HaltStopsTheEngine := fun x s =>
  ⟨_, exec_halt x s, takeHalt_advance_frame .haltInstr s⟩

/-- Settles O23, by the same frame with the other cause. -/
theorem illegalRowsTakeTheFault : Obligations.IllegalRowsTakeTheFault := fun _ s hi =>
  ⟨_, exec_illegal hi s, takeHalt_advance_frame .illegal s⟩

/-- Settles O30: what decodes is well-formed, and the step latches the cell at PC. -/
theorem stepRunsTheFetchedInstruction : Obligations.StepRunsTheFetchedInstruction := by
  intro s i hs hpc hd
  obtain ⟨hwf, -⟩ := decode_ok hd
  exact ⟨hwf, step_of_decode_read hs hpc rfl hd⟩

theorem fetchAndExecute_of_fetchable {s : State} (h : fetchable s = true) :
    fetchAndExecute s = executeLatched (latch s) := if_pos h

theorem fetchAndExecute_of_not_fetchable {s : State} (h : fetchable s = false) :
    fetchAndExecute s = .next (takeFetchRange s) := if_neg (Bool.eq_false_iff.mp h)

/-- Settles O31: the range check fails, so the step takes the fault and fetches nothing. -/
theorem fetchRangeFaultKeepsPc : Obligations.FetchRangeFaultKeepsPc := by
  intro s hs hpc
  have hf : fetchable s = false := decide_eq_false (Nat.not_lt.mpr hpc)
  have hstep : step s = .next (takeFetchRange s) := by
    rw [step_of_atStepStart hs, fetchAndExecute_of_not_fetchable hf]
  exact ⟨_, hstep, takeFetchRange_halts s, rfl, rfl, rfl, takeHalt_keeps .fetchRange s⟩

theorem step_of_halted {s : State} (hh : s.halted = true) : step s = .next s := if_pos hh

/-- Settles O32. -/
theorem stepWhileHaltedIsNoOp : Obligations.StepWhileHaltedIsNoOp := fun _ => step_of_halted

/-- With no command the accepting engine stays in IDLE (R134). -/
theorem clockEdge_of_no_command {p : HostPins} {s : State} (hr : p.rst = false) (ha : acceptsCommand s = true)
    (hc : p.command = none) : clockEdge p s = .next s := by
  obtain ⟨hp, hrun⟩ := acceptsCommand_iff.mp ha
  simp [clockEdge, hr, hp, hrun, idleEdge, hc]

/-- Settles O50: `run` comes before `step`, and either is the edge's command when it is asserted first. -/
theorem runAndStepCommands : Obligations.RunAndStepCommands := by
  intro p s hr hm hw ha
  have hrun (h : p.run = true) : clockEdge p s = .next (beginRun s) :=
    clockEdge_of_command (c := .run) hr ha (by simp [HostPins.command, hm, hw, h])
  have hstep (h : p.run = false) (h' : p.step = true) : clockEdge p s = .next (beginStep s) :=
    clockEdge_of_command (c := .step) hr ha (by simp [HostPins.command, hm, hw, h, h'])
  have hnone (h : p.run = false) (h' : p.step = false) : clockEdge p s = .next s :=
    clockEdge_of_no_command hr ha (by simp [HostPins.command, hm, hw, h, h'])
  refine ⟨fun hh => ?_, fun hh h => ?_, fun hh h h' => ?_, fun _ => hnone⟩
  · cases h : p.run with
    | true => rw [hrun h, beginRun_of_halted hh]
    | false =>
      cases h' : p.step with
      | true => rw [hstep h h', beginStep_of_halted hh]
      | false => exact hnone h h'
  · rw [hrun h, beginRun_of_not_halted hh]
  · rw [hstep h h', beginStep_of_not_halted hh]

end Sys2Proof.Machine
end

section
/-! Every step that answers a state ends in `finishStep`; otherwise it waits for its device (R34, R132, R281). -/

namespace Sys2Proof.Machine

section
variable {i : Instr} {s t : State}

/-- Every instruction that answers a state ends its step, with RUN as it was until then (R34, R132). -/
theorem exec_finishes (h : exec i s = .next t) : ∃ u, t = finishStep u ∧ u.run = s.run := by
  cases execEffect_of_exec h <;> exact ⟨_, rfl, rfl⟩

theorem executeLatched_finishes (h : executeLatched s = .next t) : ∃ u, t = finishStep u ∧ u.run = s.run := by
  obtain ⟨i, -, hi⟩ | ⟨-, rfl⟩ := executeLatched_cases h
  · exact exec_finishes hi
  · exact ⟨_, rfl, rfl⟩

/-- The same of a step, from whatever phase it is taken up in. -/
theorem step_finishes (hh : s.halted = false) (h : step s = .next t) : ∃ u, t = finishStep u ∧ u.run = s.run := by
  obtain ⟨ht, -⟩ | ⟨-, h⟩ | ⟨-, -, h⟩ | ⟨-, -, h⟩ | ⟨-, -, h⟩ := step_cases h
  · exact absurd (ht.symm.trans hh) (by decide)
  · obtain ⟨-, h⟩ | ⟨-, rfl⟩ := fetchAndExecute_cases h
    · exact executeLatched_finishes (s := latch s) h
    · exact ⟨_, rfl, rfl⟩
  · exact executeLatched_finishes h
  · exact exec_finishes h
  · exact exec_finishes h

end

/-- Settles O35: the end of the step sets PHASE, and RUN by the new HALTED. -/
theorem stepClearsRunExactlyAtHalt : Obligations.StepClearsRunExactlyAtHalt := by
  intro s t hh h
  obtain ⟨u, rfl, hrun⟩ := step_finishes hh h
  exact ⟨congrArg (· && !u.halted) hrun, rfl⟩

section
variable {i : Instr} {s : State}

theorem executes_iff_of_atStepStart (hs : s.AtStepStart) :
    s.Executes i ↔ fetchable s = true ∧ decode (fetchedWord s) = .ok i := by
  obtain ⟨hh, hp | hp⟩ := hs <;> simp [State.Executes, hh, hp]

theorem executes_iff_of_exec_phase (hh : s.halted = false) (hp : s.phase = .exec) :
    s.Executes i ↔ decode s.ir = .ok i := by
  simp [State.Executes, hh, hp]

theorem executes_iff_of_waitIn (hh : s.halted = false) (hp : s.phase = .waitIn) : s.Executes i ↔ i = .inp := by
  simp [State.Executes, hh, hp]

theorem executes_iff_of_waitOut (hh : s.halted = false) (hp : s.phase = .waitOut) : s.Executes i ↔ i = .out := by
  simp [State.Executes, hh, hp]

theorem step_of_waitIn (hh : s.halted = false) (hp : s.phase = .waitIn) : step s = exec .inp s := by
  simp [step, executeOne, hh, hp]

theorem step_of_waitOut (hh : s.halted = false) (hp : s.phase = .waitOut) : step s = exec .out s := by
  simp [step, executeOne, hh, hp]

/-- The instruction a step executes reads the state as it stands, but for PHASE and IR (R121, R122). -/
theorem State.Executes.step_eq (h : s.Executes i) : ∃ w ph, step s = exec i { s with ir := w, phase := ph } := by
  have hh : s.halted = false := h.1
  have at_start (hs : s.AtStepStart) : step s = exec i (latch s) := by
    obtain ⟨hf, hd⟩ := (executes_iff_of_atStepStart hs).mp h
    rw [step_of_atStepStart hs, fetchAndExecute_of_fetchable hf]
    exact executeLatched_of_decode (s := latch s) hd
  cases hp : s.phase with
  | idle => exact ⟨_, _, at_start ⟨hh, .inl hp⟩⟩
  | fetch => exact ⟨_, _, at_start ⟨hh, .inr hp⟩⟩
  | exec =>
    rw [step_of_exec_phase hh hp, executeLatched_of_decode ((executes_iff_of_exec_phase hh hp).mp h)]
    exact ⟨s.ir, s.phase, rfl⟩
  | waitIn =>
    obtain rfl := (executes_iff_of_waitIn hh hp).mp h
    exact ⟨s.ir, s.phase, step_of_waitIn hh hp⟩
  | waitOut =>
    obtain rfl := (executes_iff_of_waitOut hh hp).mp h
    exact ⟨s.ir, s.phase, step_of_waitOut hh hp⟩

theorem executeLatched_next_or_decode (s : State) :
    (∃ t, executeLatched s = .next t) ∨ ∃ i, decode s.ir = .ok i := by
  cases hd : decode s.ir with
  | ok i => exact .inr ⟨i, rfl⟩
  | error e => exact .inl ⟨takeIllegal s, by simp only [executeLatched, hd]⟩

/-- A step that executes no instruction is the halted no-op or one of the two faults, and answers a state. -/
theorem step_next_or_executes (s : State) :
    (∃ t, step s = .next t) ∨ ∃ i, i.wellFormed = true ∧ s.Executes i := by
  cases hh : s.halted with
  | true => exact .inl ⟨s, step_of_halted hh⟩
  | false =>
    have at_start (hs : s.AtStepStart) : (∃ t, step s = .next t) ∨ ∃ i, i.wellFormed = true ∧ s.Executes i := by
      rw [step_of_atStepStart hs]
      cases hf : fetchable s with
      | false => exact .inl ⟨_, fetchAndExecute_of_not_fetchable hf⟩
      | true =>
        rw [fetchAndExecute_of_fetchable hf]
        refine (executeLatched_next_or_decode (latch s)).imp_right fun ⟨i, hd⟩ => ?_
        exact ⟨i, (decode_ok hd).1, (executes_iff_of_atStepStart hs).mpr ⟨hf, hd⟩⟩
    cases hp : s.phase with
    | idle => exact at_start ⟨hh, .inl hp⟩
    | fetch => exact at_start ⟨hh, .inr hp⟩
    | exec =>
      rw [step_of_exec_phase hh hp]
      refine (executeLatched_next_or_decode s).imp_right fun ⟨i, hd⟩ => ?_
      exact ⟨i, (decode_ok hd).1, (executes_iff_of_exec_phase hh hp).mpr hd⟩
    | waitIn => exact .inr ⟨.inp, rfl, (executes_iff_of_waitIn hh hp).mpr rfl⟩
    | waitOut => exact .inr ⟨.out, rfl, (executes_iff_of_waitOut hh hp).mpr rfl⟩

/-- A well-formed instruction answers a state unless its device does not act (R240, R281). -/
theorem exec_next_of_enabled (hi : i.wellFormed = true) (hin : ¬ (i = .inp ∧ s.input.offer = none))
    (hout : ¬ (i = .out ∧ s.output.ready = false)) : ∃ t, exec i s = .next t := by
  cases i with
  | halt x => exact ⟨_, exec_halt x s⟩
  | illegalOpcode4 x => exact ⟨_, exec_illegal rfl s⟩
  | illegal900 => exact ⟨_, exec_illegal rfl s⟩
  | illegal903 x => exact ⟨_, exec_illegal rfl s⟩
  | add a => exact ⟨_, exec_add (of_decide_eq_true hi) s⟩
  | sub a => exact ⟨_, exec_sub (of_decide_eq_true hi) s⟩
  | sta a => exact ⟨_, exec_sta (of_decide_eq_true hi) s⟩
  | lda a => exact ⟨_, exec_lda (of_decide_eq_true hi) s⟩
  | bra a => exact ⟨_, exec_bra a s⟩
  | brz a => exact ⟨_, exec_brz a s⟩
  | brp a => exact ⟨_, exec_brp a s⟩
  | inp =>
    obtain ⟨x, hx⟩ := Option.ne_none_iff_exists'.mp fun ho => hin ⟨rfl, ho⟩
    exact ⟨_, exec_inp_offer hx⟩
  | out => exact ⟨_, exec_out_ready (eq_true_of_ne_false fun ho => hout ⟨rfl, ho⟩)⟩

/-- A step that is enabled answers a state (R240, R281). -/
theorem step_next_of_enabled (hin : ¬ s.AwaitsInput) (hout : ¬ s.AwaitsOutput) : ∃ t, step s = .next t := by
  obtain hn | ⟨i, hi, hx⟩ := step_next_or_executes s
  · exact hn
  · obtain ⟨w, ph, heq⟩ := hx.step_eq
    rw [heq]
    refine exec_next_of_enabled hi ?_ ?_
    · rintro ⟨rfl, ho⟩
      exact hin ⟨hx, ho⟩
    · rintro ⟨rfl, ho⟩
      exact hout ⟨hx, ho⟩

theorem step_of_awaitsInput (h : s.AwaitsInput) : step s = .fault .awaitsInput := by
  obtain ⟨hx, ho⟩ := h
  obtain ⟨w, ph, heq⟩ := hx.step_eq
  exact heq.trans (exec_inp_awaits ho)

theorem step_of_awaitsOutput (h : s.AwaitsOutput) : step s = .fault .awaitsOutput := by
  obtain ⟨hx, ho⟩ := h
  obtain ⟨w, ph, heq⟩ := hx.step_eq
  exact heq.trans (exec_out_awaits ho)

end
end Sys2Proof.Machine
end

section
/-! Runs: what a number of steps comes to, and the three ways a run can go (R130, R135, R281). -/

namespace Sys2Proof.Machine

section
variable {s t : State} {k : Nat}

theorem runFor_succ_of_step (h : step s = .next t) (k : Nat) : s.runFor (k + 1) = t.runFor k := by
  simp only [State.runFor, h]

/-- A number of steps is taken one part after the other. -/
theorem runFor_add (h : s.runFor k = .next t) (j : Nat) : s.runFor (k + j) = t.runFor j := by
  induction k generalizing s with
  | zero =>
    cases h
    rw [Nat.zero_add]
  | succ k ih =>
    cases hu : step s with
    | next u =>
      rw [runFor_succ_of_step hu] at h
      rw [Nat.succ_add, runFor_succ_of_step hu, ih h]
    | fault f =>
      simp only [State.runFor, hu] at h
      cases h
    | refused r =>
      simp only [State.runFor, hu] at h
      cases h

/-- A halted engine makes no step (R130). -/
theorem runFor_of_halted (hh : s.halted = true) (k : Nat) : s.runFor k = .next s := by
  induction k with
  | zero => rfl
  | succ k ih => rw [runFor_succ_of_step (step_of_halted hh), ih]

/-- From its end on a run stays there (R135). -/
theorem runFor_of_le_of_halted {j : Nat} (h : s.runFor k = .next t) (hh : t.halted = true) (hle : k ≤ j) :
    s.runFor j = .next t := by
  obtain ⟨d, rfl⟩ := Nat.exists_eq_add_of_le hle
  rw [runFor_add h, runFor_of_halted hh]

theorem endsIn_unique {t' : State} (h : s.EndsIn t) (h' : s.EndsIn t') : t = t' := by
  obtain ⟨k, hk, hh⟩ := h
  obtain ⟨k', hk', hh'⟩ := h'
  obtain hle | hle := Nat.le_total k k'
  · exact Host.Outcome.next.inj ((runFor_of_le_of_halted hk hh hle).symm.trans hk')
  · exact Host.Outcome.next.inj (hk.symm.trans (runFor_of_le_of_halted hk' hh' hle))

theorem not_halted_of_awaits (h : s.AwaitsInput ∨ s.AwaitsOutput) : s.halted = false := by
  obtain ⟨hx, -⟩ | ⟨hx, -⟩ := h <;> exact hx.1

/-- A waiting step is the last of its run: no further number of steps has a state (R281, log 6). -/
theorem runFor_succ_of_awaits (h : s.AwaitsInput ∨ s.AwaitsOutput) (k : Nat) : s.runFor (k + 1) ≠ .next t := by
  obtain h | h := h
  · simp [State.runFor, step_of_awaitsInput h]
  · simp [State.runFor, step_of_awaitsOutput h]

theorem not_endsIn_of_comesToWait (hw : s.ComesToWait) : ¬ s.EndsIn t := by
  rintro ⟨k, hk, hh⟩
  obtain ⟨j, u, hj, hu⟩ := hw
  obtain hlt | hle := Nat.lt_or_ge j k
  · obtain ⟨d, rfl⟩ := Nat.exists_eq_add_of_lt hlt
    rw [Nat.add_assoc, runFor_add hj] at hk
    exact runFor_succ_of_awaits hu d hk
  · have htu : t = u := Host.Outcome.next.inj ((runFor_of_le_of_halted hk hh hle).symm.trans hj)
    have hnot := not_halted_of_awaits hu
    simp [← htu, hh] at hnot

theorem not_endsIn_of_runsForever (hf : s.RunsForever) : ¬ s.EndsIn t := by
  rintro ⟨k, hk, hh⟩
  obtain ⟨u, hu, hnot, -, -⟩ := hf k
  obtain rfl : t = u := Host.Outcome.next.inj (hk.symm.trans hu)
  exact absurd (hh.symm.trans hnot) (by decide)

theorem not_comesToWait_of_runsForever (hf : s.RunsForever) : ¬ s.ComesToWait := by
  rintro ⟨k, t, hk, hw⟩
  obtain ⟨u, hu, -, hin, hout⟩ := hf k
  obtain rfl : t = u := Host.Outcome.next.inj (hk.symm.trans hu)
  exact hw.elim hin hout

/-- Without a wait on the way every number of steps has a state: each step is enabled. -/
theorem exists_runFor_of_no_wait (hw : ¬ s.ComesToWait) (k : Nat) : ∃ t, s.runFor k = .next t := by
  induction k with
  | zero => exact ⟨s, rfl⟩
  | succ k ih =>
    obtain ⟨t, ht⟩ := ih
    obtain ⟨u, hu⟩ := step_next_of_enabled (fun h => hw ⟨k, t, ht, .inl h⟩) (fun h => hw ⟨k, t, ht, .inr h⟩)
    exact ⟨u, by rw [runFor_add ht, runFor_succ_of_step hu, State.runFor]⟩

theorem runsForever_of_no_end_of_no_wait (he : ¬ ∃ t, s.EndsIn t) (hw : ¬ s.ComesToWait) : s.RunsForever := by
  intro k
  obtain ⟨t, ht⟩ := exists_runFor_of_no_wait hw k
  exact ⟨t, ht, eq_false_of_ne_true fun hh => he ⟨t, k, ht, hh⟩, fun h => hw ⟨k, t, ht, .inl h⟩,
    fun h => hw ⟨k, t, ht, .inr h⟩⟩

end

/-- Settles O38: a run without an end and without a wait goes on at every count, and each two of the three exclude each
other at the count where one of them shows. -/
theorem runEndsOnceOrWaitsOrRunsForever : Obligations.RunEndsOnceOrWaitsOrRunsForever := by
  refine ⟨fun k s hh => runFor_of_halted hh k, fun _ _ _ => endsIn_unique, fun s => ?_, fun s => ⟨?_, ?_, ?_⟩⟩
  · by_cases he : ∃ t, s.EndsIn t
    · exact .inl he
    by_cases hw : s.ComesToWait
    · exact .inr (.inl hw)
    exact .inr (.inr (runsForever_of_no_end_of_no_wait he hw))
  · exact fun ⟨⟨_, he⟩, hw⟩ => not_endsIn_of_comesToWait hw he
  · exact fun ⟨⟨_, he⟩, hf⟩ => not_endsIn_of_runsForever hf he
  · exact fun ⟨hw, hf⟩ => not_comesToWait_of_runsForever hf hw

end Sys2Proof.Machine
end

section
/-! The sequencer's edges from FETCH against the step: the fetch, the commit in EXEC, and INP and OUT in their wait
phase (R131, R132, R134, R281). -/

namespace Sys2Proof.Machine

/-- Edges without `rst`. -/
abbrev NoReset (ps : List HostPins) : Prop := ∀ p ∈ ps, p.rst = false

/-- The phase INP and OUT commit in (R134); meant for these two. -/
def waitPhase : Instr → Phase
  | .out => .waitOut
  | _ => .waitIn

/-- `n` edges from `s` come to what the step answers, with the next step begun under RUN (R134, log 7). -/
def State.CommitsAfter (s : State) (n : Nat) : Prop :=
  ∀ t, step s = .next t → ∀ ps : List HostPins, ps.length = n → NoReset ps → clockEdges ps s = .next (beginNextStep t)

section
variable {i : Instr} {p q : HostPins} {ps : List HostPins} {s t : State} {n : Nat}

theorem clockEdge_of_fetch (hr : p.rst = false) (hp : s.phase = .fetch) : clockEdge p s = fetchEdge s := by
  simp [clockEdge, hr, hp]

theorem clockEdge_of_exec (hr : p.rst = false) (hp : s.phase = .exec) : clockEdge p s = execEdge s := by
  simp [clockEdge, hr, hp]

theorem clockEdge_of_waitIn (hr : p.rst = false) (hp : s.phase = .waitIn) : clockEdge p s = waitInEdge s := by
  simp [clockEdge, hr, hp]

theorem clockEdge_of_waitOut (hr : p.rst = false) (hp : s.phase = .waitOut) : clockEdge p s = waitOutEdge s := by
  simp [clockEdge, hr, hp]

/-- At a step boundary under RUN the edge is the fetch of the next step (R132, log 7). -/
theorem clockEdge_of_idle_run (hr : p.rst = false) (hh : s.halted = false) (hp : s.phase = .idle) (hrun : s.run = true) :
    clockEdge p s = fetchEdge s := by
  simp [clockEdge, hr, hh, hp, hrun]

theorem fetchEdge_of_fetchable (hf : fetchable s = true) : fetchEdge s = .next (latch s) := by
  simp [fetchEdge, hf]

theorem fetchEdge_of_not_fetchable (hf : fetchable s = false) : fetchEdge s = .next (takeFetchRange s) := by
  simp [fetchEdge, hf]

theorem clockEdges_cons_of_next (h : clockEdge p s = .next t) (ps : List HostPins) :
    clockEdges (p :: ps) s = clockEdges ps t := by
  simp only [clockEdges, h]

theorem clockEdges_singleton_of_next (h : clockEdge p s = .next t) : clockEdges [p] s = .next t :=
  clockEdges_cons_of_next h []

/-- A state that no edge leaves stays for any number of edges. -/
theorem clockEdges_of_fixed (h : ∀ p : HostPins, p.rst = false → clockEdge p s = .next s) (hps : NoReset ps) :
    clockEdges ps s = .next s := by
  induction ps with
  | nil => rfl
  | cons p ps ih =>
    obtain ⟨hp, hps⟩ := List.forall_mem_cons.mp hps
    rw [clockEdges_cons_of_next (h p hp), ih hps]

/-- At its start a step with a fetchable PC is the latched instruction (R120, R122). -/
theorem step_of_fetchable (hs : s.AtStepStart) (hf : fetchable s = true) : step s = executeLatched (latch s) := by
  rw [step_of_atStepStart hs, fetchAndExecute_of_fetchable hf]

theorem eq_inp_or_out_of_isIo (hi : i.isIo = true) : i = .inp ∨ i = .out := by
  cases i with
  | inp => exact .inl rfl
  | out => exact .inr rfl
  | _ => cases hi

/-- INP and OUT do not read the phase they are taken up in, and their commit sets it. -/
theorem exec_io_waitAt (hi : i.isIo = true) (w : Phase) (s : State) : exec i (waitAt w s) = exec i s := by
  obtain rfl | rfl := eq_inp_or_out_of_isIo hi
  · cases ho : s.input.offer with
    | none => exact (exec_inp_awaits (s := waitAt w s) ho).trans (exec_inp_awaits ho).symm
    | some x => exact (exec_inp_offer (s := waitAt w s) ho).trans (exec_inp_offer ho).symm
  · cases ho : s.output.ready with
    | false => exact (exec_out_awaits (s := waitAt w s) ho).trans (exec_out_awaits ho).symm
    | true => exact (exec_out_ready (s := waitAt w s) ho).trans (exec_out_ready ho).symm

/-- In EXEC every instruction but INP and OUT commits, and a word with no row its fault. -/
theorem execEdge_of_no_io (h : ∀ i, decode s.ir = .ok i → i.isIo = false) :
    execEdge s = commitEdge (executeLatched s) := by
  unfold execEdge
  split
  case h_1 hd => exact absurd (h .inp hd) (by decide)
  case h_2 hd => exact absurd (h .out hd) (by decide)
  case h_3 => rfl

theorem execEdge_of_io (hd : decode s.ir = .ok i) (hi : i.isIo = true) :
    execEdge s = .next (waitAt (waitPhase i) s) := by
  obtain rfl | rfl := eq_inp_or_out_of_isIo hi <;> simp [execEdge, hd, waitPhase]

/-- In its wait phase an instruction commits at the edge where it answers a state. -/
theorem clockEdge_of_wait_next (hr : p.rst = false) (hi : i.isIo = true) (hp : s.phase = waitPhase i)
    (h : exec i s = .next t) : clockEdge p s = .next (beginNextStep t) := by
  obtain rfl | rfl := eq_inp_or_out_of_isIo hi
  · cases ho : s.input.offer with
    | none =>
      rw [exec_inp_awaits ho] at h
      cases h
    | some x => simp [clockEdge_of_waitIn hr hp, waitInEdge, ho, h, commitEdge]
  · cases ho : s.output.ready with
    | false =>
      rw [exec_out_awaits ho] at h
      cases h
    | true => simp [clockEdge_of_waitOut hr hp, waitOutEdge, ho, h, commitEdge]

/-- The first edge from FETCH latches `M[PC]`. -/
theorem clockEdges_fetch (hp : s.phase = .fetch) (hf : fetchable s = true) (hr : p.rst = false) (ps : List HostPins) :
    clockEdges (p :: ps) s = clockEdges ps (latch s) :=
  clockEdges_cons_of_next ((clockEdge_of_fetch hr hp).trans (fetchEdge_of_fetchable hf)) ps

/-- The first two edges take INP and OUT to their wait phase. -/
theorem clockEdges_to_wait (hp : s.phase = .fetch) (hf : fetchable s = true) (hd : decode (fetchedWord s) = .ok i)
    (hi : i.isIo = true) (hrp : p.rst = false) (hrq : q.rst = false) (ps : List HostPins) :
    clockEdges (p :: q :: ps) s = clockEdges ps (waitAt (waitPhase i) (latch s)) := by
  rw [clockEdges_fetch hp hf hrp]
  exact clockEdges_cons_of_next ((clockEdge_of_exec hrq rfl).trans (execEdge_of_io hd hi)) ps

/-- The fetch-range fault commits at the first edge. -/
theorem commitsAfter_one (hh : s.halted = false) (hp : s.phase = .fetch) (hf : fetchable s = false) :
    s.CommitsAfter 1 := by
  intro t ht ps hlen hps
  obtain ⟨p, rfl⟩ := List.length_eq_one_iff.mp hlen
  have hr : p.rst = false := hps p (List.mem_singleton_self p)
  rw [step_of_atStepStart ⟨hh, .inr hp⟩, fetchAndExecute_of_not_fetchable hf] at ht
  cases ht
  rw [beginNextStep_of_not_run (takeFetchRange_run s)]
  exact clockEdges_singleton_of_next ((clockEdge_of_fetch hr hp).trans (fetchEdge_of_not_fetchable hf))

/-- What is no INP or OUT commits in EXEC, at the second edge. -/
theorem commitsAfter_two (hh : s.halted = false) (hp : s.phase = .fetch) (hf : fetchable s = true)
    (hio : ∀ i, decode (fetchedWord s) = .ok i → i.isIo = false) : s.CommitsAfter 2 := by
  intro t ht ps hlen hps
  obtain ⟨p, q, rfl⟩ := List.length_eq_two.mp hlen
  obtain ⟨hrp, hrq⟩ : p.rst = false ∧ q.rst = false := by simpa [NoReset] using hps
  rw [step_of_fetchable ⟨hh, .inr hp⟩ hf] at ht
  rw [clockEdges_fetch hp hf hrp]
  refine clockEdges_singleton_of_next ?_
  rw [clockEdge_of_exec hrq rfl, execEdge_of_no_io hio, ht, commitEdge]

/-- INP and OUT commit in their wait phase, at the third edge when the device acts at once. -/
theorem commitsAfter_three (hh : s.halted = false) (hp : s.phase = .fetch) (hf : fetchable s = true)
    (hd : decode (fetchedWord s) = .ok i) (hi : i.isIo = true) : s.CommitsAfter 3 := by
  intro t ht ps hlen hps
  obtain ⟨p, q, r, rfl⟩ := List.length_eq_three.mp hlen
  obtain ⟨hrp, hrq, hrr⟩ : p.rst = false ∧ q.rst = false ∧ r.rst = false := by simpa [NoReset] using hps
  rw [step_of_fetchable ⟨hh, .inr hp⟩ hf, executeLatched_of_decode (s := latch s) hd,
    ← exec_io_waitAt hi (waitPhase i)] at ht
  rw [clockEdges_to_wait hp hf hd hi hrp hrq]
  exact clockEdges_singleton_of_next (clockEdge_of_wait_next hrr hi rfl ht)

/-- The number of edges of the step that begins in FETCH: 1 to 3, and 2 for a fetched instruction that is no INP or
OUT. -/
theorem exists_commitsAfter (hh : s.halted = false) (hp : s.phase = .fetch) :
    ∃ n, 1 ≤ n ∧ n ≤ 3 ∧
      (fetchable s = true → (∀ i, decode (fetchedWord s) = .ok i → i.isIo = false) → n = 2) ∧ s.CommitsAfter n := by
  cases hf : fetchable s with
  | false => exact ⟨1, by decide, by decide, fun h => absurd h (by decide), commitsAfter_one hh hp hf⟩
  | true =>
    by_cases hio : ∀ i, decode (fetchedWord s) = .ok i → i.isIo = false
    · exact ⟨2, by decide, by decide, fun _ _ => rfl, commitsAfter_two hh hp hf hio⟩
    · obtain ⟨i, hd, hi⟩ : ∃ i, decode (fetchedWord s) = .ok i ∧ i.isIo = true := by simpa using hio
      exact ⟨3, by decide, by decide, fun _ h => absurd h hio, commitsAfter_three hh hp hf hd hi⟩

/-- A step is the same from IDLE and from FETCH (log 12). -/
theorem step_idle_eq_step_fetch (hh : s.halted = false) (hp : s.phase = .fetch) :
    step { s with phase := .idle } = step s := by
  have hidle : State.AtStepStart { s with phase := .idle } := ⟨hh, .inl rfl⟩
  rw [step_of_atStepStart hidle, step_of_atStepStart ⟨hh, .inr hp⟩]
  rfl

/-- An accepted `step` command puts one edge before those from FETCH (R131). -/
theorem clockEdges_of_step_command (hh : s.halted = false) (hp : s.phase = .fetch) (hrun : s.run = false)
    (hr : p.rst = false) (hc : p.command = some .step) (ps : List HostPins) :
    clockEdges (p :: ps) { s with phase := .idle } = clockEdges ps s := by
  have ha : acceptsCommand { s with phase := .idle } = true := acceptsCommand_iff.mpr ⟨rfl, hrun⟩
  refine clockEdges_cons_of_next ?_ ps
  rw [clockEdge_of_command hr ha hc, applyCommand, beginStep_of_not_halted (s := { s with phase := .idle }) hh, ← hp]

/-- Without RUN nothing is begun at the commit, so the edges come to the step's own state. -/
theorem State.CommitsAfter.eq_step (h : s.CommitsAfter n) (hh : s.halted = false) (hrun : s.run = false)
    (ht : step s = .next t) (hlen : ps.length = n) (hps : NoReset ps) : clockEdges ps s = step s := by
  obtain ⟨hr, -⟩ := stepClearsRunExactlyAtHalt s t hh ht
  rw [h t ht ps hlen hps, ht, beginNextStep_of_not_run (by simpa [hrun] using hr)]

/-- At a step boundary under RUN the edges are those from FETCH (R132, log 7). -/
theorem clockEdges_idle_run (hh : s.halted = false) (hp : s.phase = .fetch) (hrun : s.run = true) (hne : ps ≠ [])
    (hps : NoReset ps) : clockEdges ps { s with phase := .idle } = clockEdges ps s := by
  obtain ⟨p, ps, rfl⟩ := List.exists_cons_of_ne_nil hne
  have hr : p.rst = false := hps p List.mem_cons_self
  have hedge : clockEdge p { s with phase := .idle } = clockEdge p s := by
    rw [clockEdge_of_fetch hr hp]
    exact clockEdge_of_idle_run (s := { s with phase := .idle }) hr hh rfl hrun
  simp only [clockEdges, hedge]

/-- Where its device does not act the instruction comes to its wait phase and stays (R134, R281). -/
theorem clockEdges_wait (hp : s.phase = .fetch) (hx : s.Executes i) (hi : i.isIo = true)
    (hkeep : ∀ p : HostPins, p.rst = false →
      clockEdge p (waitAt (waitPhase i) (latch s)) = .next (waitAt (waitPhase i) (latch s)))
    (hlen : 2 ≤ ps.length) (hps : NoReset ps) : clockEdges ps s = .next (waitAt (waitPhase i) (latch s)) := by
  obtain ⟨hf, hd⟩ := (executes_iff_of_atStepStart ⟨hx.1, .inr hp⟩).mp hx
  match ps, hlen with
  | p :: q :: ps, _ =>
    obtain ⟨hrp, hrq, hps⟩ : p.rst = false ∧ q.rst = false ∧ NoReset ps := by simpa [NoReset] using hps
    rw [clockEdges_to_wait hp hf hd hi hrp hrq, clockEdges_of_fixed hkeep hps]

end

/-- Settles O43: the edges by the instruction's phases, from IDLE by the command or the fetch that begins the step, and
at a wait by the phase that no edge leaves. -/
theorem sequencerRefinesStep : Obligations.SequencerRefinesStep := by
  intro s hh hp
  refine ⟨?_, fun ps hrun hne hps => clockEdges_idle_run hh hp hrun hne hps, fun hw ps hlen hps => ?_,
    fun hw ps hlen hps => ?_⟩
  · obtain ⟨n, hpos, hle, htwo, hn⟩ := exists_commitsAfter hh hp
    refine ⟨n, hpos, hle, fun hpc => htwo (decide_eq_true hpc), fun t ht => ⟨hn t ht, ?_⟩⟩
    intro p ps hrun hr hc hlen hps
    rw [clockEdges_of_step_command hh hp hrun hr hc, step_idle_eq_step_fetch hh hp, hn.eq_step hh hrun ht hlen hps]
  · obtain ⟨hx, ho⟩ := hw
    refine clockEdges_wait hp hx rfl (fun p hr => ?_) hlen hps
    rw [clockEdge_of_waitIn hr rfl]
    simp [waitInEdge, ho]
  · obtain ⟨hx, ho⟩ := hw
    refine clockEdges_wait hp hx rfl (fun p hr => ?_) hlen hps
    rw [clockEdge_of_waitOut hr rfl]
    simp [waitOutEdge, ho]

end Sys2Proof.Machine
end

section
/-! The ALU read as natural numbers (R150, R151), and ADD and SUB with it (R152, R153, R156). -/

namespace Sys2Proof.Machine

section
variable {p q : Word}

/-- The sum and its correction (R150). -/
theorem add1000_toNat (hp : p.IsCell) (hq : q.IsCell) :
    (add1000 p q).toNat = if p.toNat + q.toNat ≥ 1000 then p.toNat + q.toNat - 1000 else p.toNat + q.toNat := by
  simp only [add1000, Config.modulus, BitVec.toNat_ofNat]
  split <;> omega

/-- The sum is below 2000, so one correction is the remainder (R150). -/
theorem add1000_toNat_mod (hp : p.IsCell) (hq : q.IsCell) :
    (add1000 p q).toNat = (p.toNat + q.toNat) % 1000 := by
  rw [add1000_toNat hp hq]
  split <;> omega

/-- The borrow (R151), on all words. -/
theorem sub1000_borrow (p q : Word) : (sub1000 p q).2 = decide (p.toNat < q.toNat) := by
  simp only [sub1000]
  split
  · exact (decide_eq_true (by omega)).symm
  · exact (decide_eq_false (by omega)).symm

/-- The difference and its correction (R151). -/
theorem sub1000_toNat (hp : p.IsCell) (hq : q.IsCell) :
    (sub1000 p q).1.toNat = if p.toNat < q.toNat then p.toNat + 1000 - q.toNat else p.toNat - q.toNat := by
  simp only [sub1000, Config.modulus]
  split_ifs <;> simp only [BitVec.toNat_ofInt] <;> omega

/-- With or without the borrow, the corrected difference is the remainder (R151). -/
theorem sub1000_toNat_mod (hp : p.IsCell) (hq : q.IsCell) :
    (sub1000 p q).1.toNat = (p.toNat + 1000 - q.toNat) % 1000 := by
  rw [sub1000_toNat hp hq]
  split <;> omega

/-- With a borrow the result is at least 1, for `p + 1000` exceeds every cell value (R151, R156). -/
theorem sub1000_pos_of_lt (hp : p.IsCell) (hq : q.IsCell) (hlt : p.toNat < q.toNat) :
    1 ≤ (sub1000 p q).1.toNat := by
  rw [sub1000_toNat hp hq, if_pos hlt]
  omega

end

/-- Settles O7, by the corrected sum and its remainder. -/
theorem adderIsSumModulo1000 : Obligations.AdderIsSumModulo1000 := fun _ _ hp hq =>
  ⟨add1000_toNat_mod hp hq, add1000_toNat hp hq⟩

/-- Settles O8, by the subtractor's borrow and its corrected difference. -/
theorem subtractorGivesDifferenceAndBorrow : Obligations.SubtractorGivesDifferenceAndBorrow := by
  intro p q hp hq
  have hd := sub1000_toNat hp hq
  refine ⟨by rw [sub1000_borrow, decide_eq_true_eq], sub1000_toNat_mod hp hq, fun hlt => ?_, fun hle => ?_,
    sub1000_isCell hp hq⟩
  · exact ⟨by rwa [if_pos hlt] at hd, sub1000_pos_of_lt hp hq hlt⟩
  · rwa [if_neg (Nat.not_lt.mpr hle)] at hd

/-- An instruction that leaves memory, PC, the ports and the halt registers to the end of its step advances PC and goes
on (R123, R34). -/
theorem finishStep_advance_frame {s u : State} (hs : s.halted = false) (hm : u.mem = s.mem) (hpc : u.pc = s.pc)
    (hports : s.PortsKept u) (hh : u.halted = s.halted) (hc : u.haltCause = s.haltCause) (hr : u.run = s.run) :
    (finishStep (advance u)).pc.toNat = (s.pc.toNat + 1) % 1000 ∧ s.MemoryKept (finishStep (advance u)) ∧
    s.PortsKept (finishStep (advance u)) ∧ s.GoesOn (finishStep (advance u)) :=
  ⟨by simp [hpc, inc_toNat], fun _ => by simp [hm], hports, finishStep_goesOn hs hh hc hr⟩

/-- Settles O11: ACC takes the adder's sum with the cell, and the step ends. -/
theorem addCompletesWithSum : Obligations.AddCompletesWithSum := by
  intro a s ha hs ⟨hmem, hacc, _⟩
  have hcell := Memory.read_isCell hmem a
  obtain ⟨hpc, hkept⟩ := finishStep_advance_frame (u := writeAcc (add1000 s.acc (Memory.read s.mem a)) s)
    hs rfl rfl ⟨rfl, rfl, rfl⟩ rfl rfl rfl
  exact ⟨_, exec_add ha s, add1000_toNat_mod hacc hcell, hpc, rfl, hkept⟩

/-- Settles O12: ACC and NEG take the subtractor's difference with the cell and its borrow, and the step ends. -/
theorem subCompletesWithDifference : Obligations.SubCompletesWithDifference := by
  intro a s ha hs ⟨hmem, hacc, _⟩
  have hcell := Memory.read_isCell hmem a
  exact ⟨_, exec_sub ha s, sub1000_toNat_mod hacc hcell, sub1000_borrow s.acc (Memory.read s.mem a),
    finishStep_advance_frame hs rfl rfl ⟨rfl, rfl, rfl⟩ rfl rfl rfl⟩

/-- A SUB that answers a next state leaves the subtractor's two results in ACC and NEG (R153). -/
theorem exec_sub_acc_neg {a : Nat} {s t : State} (h : exec (.sub a) s = .next t) :
    t.acc = (sub1000 s.acc (Memory.read s.mem a)).1 ∧ t.neg = (sub1000 s.acc (Memory.read s.mem a)).2 := by
  simp only [exec, execSub] at h
  obtain ⟨-, rfl⟩ := withCell_next h
  exact ⟨rfl, rfl⟩

/-- Settles O27: NEG is the borrow, and with a borrow the difference is at least 1, so not 0. -/
theorem zeroAfterSubMeansNoBorrow : Obligations.ZeroAfterSubMeansNoBorrow := by
  intro a s t ⟨hmem, hacc, _⟩ h
  have hcell := Memory.read_isCell hmem a
  obtain ⟨haccEq, hnegEq⟩ := exec_sub_acc_neg h
  have hneg (hn : t.neg = true) : 1 ≤ t.acc.toNat ∧ t.acc.toNat ≤ 999 := by
    rw [hnegEq, sub1000_borrow, decide_eq_true_eq] at hn
    rw [haccEq]
    exact ⟨sub1000_pos_of_lt hacc hcell hn, Nat.le_of_lt_succ (sub1000_isCell hacc hcell)⟩
  refine ⟨fun hz => Bool.eq_false_iff.mpr fun hn => ?_, hneg⟩
  obtain ⟨hpos, -⟩ := hneg hn
  simp [hz] at hpos

end Sys2Proof.Machine
end

section
/-! The ALU's bit-level realisation gives the results of the adder and the subtractor (R155). -/

namespace Sys2Proof.Machine

/-- Eleven bits hold the sum of two words. -/
theorem zeroExtend_add_toNat (p q : Word) : (p.zeroExtend 11 + q.zeroExtend 11).toNat = p.toNat + q.toNat := by
  simp only [BitVec.zeroExtend_eq_setWidth, BitVec.toNat_add, BitVec.toNat_setWidth]
  omega

/-- The 11-bit difference of two words wraps at 2048. -/
theorem zeroExtend_sub_toNat (p q : Word) :
    (p.zeroExtend 11 - q.zeroExtend 11).toNat =
      if p.toNat < q.toNat then p.toNat + 2048 - q.toNat else p.toNat - q.toNat := by
  simp only [BitVec.zeroExtend_eq_setWidth, BitVec.toNat_sub, BitVec.toNat_setWidth]
  split <;> omega

/-- `{1,~q}` is the complement of `{0,q}`. -/
theorem one_append_not (q : Word) : (1#1 ++ ~~~q : BitVec 11) = ~~~(q.zeroExtend 11) := by
  rw [BitVec.zeroExtend_eq_setWidth, BitVec.setWidth_eq_append (by decide), BitVec.cast_eq, BitVec.not_append]
  rfl

/-- `{0,p} + {1,~q} + 1` is the 11-bit difference, in two's complement. -/
theorem add_one_append_not_add_one (p q : Word) :
    p.zeroExtend 11 + (1#1 ++ ~~~q : BitVec 11) + 1#11 = p.zeroExtend 11 - q.zeroExtend 11 := by
  rw [one_append_not, BitVec.add_assoc, BitVec.sub_eq_add_neg, BitVec.neg_eq_not_add]

/-- Bit 10 of the 11-bit difference is the borrow. -/
theorem zeroExtend_sub_getLsbD_ten (p q : Word) :
    (p.zeroExtend 11 - q.zeroExtend 11).getLsbD 10 = decide (p.toNat < q.toNat) := by
  rw [← BitVec.msb_eq_getLsbD_last, BitVec.msb_eq_decide, zeroExtend_sub_toNat, decide_eq_decide]
  split <;> omega

section
variable {p q : Word}

theorem add1000Bits_eq (hp : p.IsCell) (hq : q.IsCell) : add1000Bits p q = add1000 p q := by
  have hle : 1000#11 ≤ p.zeroExtend 11 + q.zeroExtend 11 ↔ p.toNat + q.toNat ≥ 1000 := by
    rw [BitVec.le_def, zeroExtend_add_toNat]
    rfl
  apply BitVec.eq_of_toNat_eq
  simp only [add1000Bits, ← BitVec.setWidth_eq_extractLsb' (by decide : 10 ≤ 11), BitVec.toNat_setWidth, hle,
    add1000_toNat hp hq]
  split
  · rw [BitVec.toNat_sub, zeroExtend_add_toNat]
    simp only [BitVec.toNat_ofNat]
    omega
  · rw [zeroExtend_add_toNat]
    omega

theorem sub1000Bits_eq (hp : p.IsCell) (hq : q.IsCell) : sub1000Bits p q = sub1000 p q := by
  have ht := zeroExtend_sub_toNat p q
  refine Prod.ext (BitVec.eq_of_toNat_eq ?_) ?_ <;>
    simp only [sub1000Bits, add_one_append_not_add_one, zeroExtend_sub_getLsbD_ten, decide_eq_true_eq]
  · rw [← BitVec.setWidth_eq_extractLsb' (by decide : 10 ≤ 11), BitVec.toNat_setWidth, sub1000_toNat hp hq]
    split_ifs at ht ⊢
    · rw [BitVec.toNat_add, ht, BitVec.toNat_ofNat]
      omega
    · omega
  · exact (sub1000_borrow p q).symm

end

/-- Settles O9: both bit-level units are the units of R150 and R151, whose results are cell values. -/
theorem bitLevelAluAgrees : Obligations.BitLevelAluAgrees := by
  intro p q hp hq
  rw [add1000Bits_eq hp hq, sub1000Bits_eq hp hq, sub1000_borrow, decide_eq_true_eq]
  exact ⟨rfl, rfl, add1000_isCell hp hq, sub1000_isCell hp hq, Iff.rfl⟩

end Sys2Proof.Machine
end

section
/-! The memory transfers: LDA and STA (R171, R172). -/

namespace Sys2Proof.Machine

/-- Settles O13: a cell value is its own normal form, so ACC takes the cell as it reads, and the step ends. -/
theorem ldaCompletesWithCell : Obligations.LdaCompletesWithCell := by
  intro a s ha hs ⟨hmem, _⟩
  have hcell := Memory.read_isCell hmem a
  obtain ⟨hpc, hkept⟩ := finishStep_advance_frame (u := writeAcc (norm (Memory.read s.mem a)) s)
    hs rfl rfl ⟨rfl, rfl, rfl⟩ rfl rfl rfl
  exact ⟨_, exec_lda ha s, norm_of_isCell hcell, hpc, rfl, hkept⟩

/-- Settles O14: the stored cell reads as ACC, a write leaves every other cell, and the step ends. -/
theorem staCompletesStoringAcc : Obligations.StaCompletesStoringAcc := by
  intro a s ha hs hr
  have hexec := exec_sta ha s
  exact ⟨_, hexec, exec_sta_read ha hr hexec, fun _ hb => Memory.read_write_other s.mem s.acc hb,
    inc_toNat s.pc, rfl, rfl, ⟨rfl, rfl, rfl⟩, finishStep_goesOn hs rfl rfl rfl⟩

end Sys2Proof.Machine
end

section
/-! The branches: BRA, BRZ and BRP (R190 to R193), and SUB followed by a branch (R194). -/

namespace Sys2Proof.Machine

section
variable {a : Nat} {s : State}

/-- A taken branch puts PC at the operand, which is a cell's address, and changes nothing else (R190). -/
theorem finishStep_jump_frame (ha : a < 100) (hs : s.halted = false) :
    (finishStep (jump a s)).pc.toNat = a ∧ (finishStep (jump a s)).acc = s.acc ∧ (finishStep (jump a s)).neg = s.neg ∧
    s.MemoryKept (finishStep (jump a s)) ∧ s.PortsKept (finishStep (jump a s)) ∧ s.GoesOn (finishStep (jump a s)) :=
  have hpc : (branchTarget a).toNat = a := by
    rw [branchTarget_toNat]
    omega
  ⟨hpc, rfl, rfl, fun _ => rfl, ⟨rfl, rfl, rfl⟩, finishStep_goesOn hs rfl rfl rfl⟩

/-- A branch on the condition `taken` writes PC alone: the operand when it holds, else the advance (R123, R190). -/
theorem finishStep_branch_frame (taken : Prop) [Decidable taken] (ha : a < 100) (hs : s.halted = false) {t : State}
    (ht : t = finishStep (if taken then jump a s else advance s)) :
    t.pc.toNat = (if taken then a else (s.pc.toNat + 1) % 1000) ∧ t.acc = s.acc ∧ t.neg = s.neg ∧
    s.MemoryKept t ∧ s.PortsKept t ∧ s.GoesOn t := by
  subst ht
  split
  · exact finishStep_jump_frame ha hs
  · obtain ⟨hpc, hkept⟩ := finishStep_advance_frame (u := s) hs rfl rfl ⟨rfl, rfl, rfl⟩ rfl rfl rfl
    exact ⟨hpc, rfl, rfl, hkept⟩

/-- BRZ's condition read as a number (R192). -/
theorem exec_brz_toNat (a : Nat) (s : State) :
    exec (.brz a) s = .next (finishStep (if s.acc.toNat = 0 then jump a s else advance s)) := by
  rw [exec_brz, if_congr BitVec.toNat_inj.symm rfl rfl]
  rfl

/-- BRP's condition with the taken branch first (R193). -/
theorem exec_brp_taken_first (a : Nat) (s : State) :
    exec (.brp a) s = .next (finishStep (if s.neg = false then jump a s else advance s)) := by
  rw [exec_brp]
  cases s.neg <;> rfl

end

/-- Settles O15, by the taken branch. -/
theorem braCompletesAtTarget : Obligations.BraCompletesAtTarget := fun a s ha hs =>
  ⟨_, exec_bra a s, finishStep_jump_frame ha hs⟩

/-- Settles O16, by the branch on ACC. -/
theorem brzCompletesOnAccumulator : Obligations.BrzCompletesOnAccumulator := fun a s ha hs =>
  ⟨_, exec_brz_toNat a s, finishStep_branch_frame (s.acc.toNat = 0) ha hs rfl⟩

/-- Settles O17, by the branch on NEG. -/
theorem brpCompletesOnNegativeFlag : Obligations.BrpCompletesOnNegativeFlag := fun a s ha hs =>
  ⟨_, exec_brp_taken_first a s, finishStep_branch_frame (s.neg = false) ha hs rfl⟩

section
variable {p q : Word}

/-- The borrow is absent exactly when `p >= q` (R151, R194). -/
theorem sub1000_no_borrow_iff (p q : Word) : (sub1000 p q).2 = false ↔ q.toNat ≤ p.toNat := by
  rw [sub1000_borrow, decide_eq_false_iff_not, Nat.not_lt]

/-- The difference of two cell values is 0 exactly when they are equal (R151, R194). -/
theorem sub1000_toNat_eq_zero_iff (hp : p.IsCell) (hq : q.IsCell) : (sub1000 p q).1.toNat = 0 ↔ p = q := by
  rw [sub1000_toNat_mod hp hq, ← BitVec.toNat_inj]
  omega

end

/-- Settles O28: SUB leaves the borrow in NEG, which BRP tests, and the difference in ACC, which BRZ tests; an untaken
branch advances PC from where SUB left it. -/
theorem subThenBranchCompares : Obligations.SubThenBranchCompares := by
  intro m target s hm ht hs hr
  obtain ⟨u, hu, -, -, hpc, -, -, hh, -⟩ := subCompletesWithDifference m s hm hs hr
  obtain ⟨hacc, hneg⟩ := exec_sub_acc_neg hu
  obtain ⟨v, hv, hvpc, -⟩ := brpCompletesOnNegativeFlag target u ht (hh.trans hs)
  obtain ⟨w, hw, hwpc, -⟩ := brzCompletesOnAccumulator target u ht (hh.trans hs)
  have hbrp : u.neg = false ↔ (Memory.read s.mem m).toNat ≤ s.acc.toNat := by
    rw [hneg, sub1000_no_borrow_iff]
  have hbrz : u.acc.toNat = 0 ↔ s.acc = Memory.read s.mem m := by
    obtain ⟨hmem, hcell, -⟩ := hr
    rw [hacc, sub1000_toNat_eq_zero_iff hcell (Memory.read_isCell hmem m)]
  have hadvance : (u.pc.toNat + 1) % 1000 = (s.pc.toNat + 2) % 1000 := by
    rw [hpc, Nat.mod_add_mod]
  exact ⟨u, v, w, hu, hv, hw, hvpc.trans (if_congr hbrp rfl hadvance), hwpc.trans (if_congr hbrz rfl hadvance)⟩

end Sys2Proof.Machine
end

section
/-! The instructions other than INP and OUT and the devices (R216, R243), and INP's and OUT's transfers (R213, R215). -/

namespace Sys2Proof.Machine

/-- The state with other devices at the ports and another record of the port events. -/
def State.withPorts (d : InputDevice) (o : OutputDevice) (l : List PortEvent) (s : State) : State :=
  { s with input := d, output := o, portLog := l }

section
variable {i : Instr} {s t : State}

theorem exec_of_execEffect (h : ExecEffect s i t) : exec i s = .next t := by
  cases h with
  | halt x => exact exec_halt x s
  | illegal hi => exact exec_illegal hi s
  | add ha => exact exec_add ha s
  | sub ha => exact exec_sub ha s
  | sta ha => exact exec_sta ha s
  | lda ha => exact exec_lda ha s
  | taken hi =>
    obtain rfl | ⟨rfl, hz⟩ | ⟨rfl, hn⟩ := hi
    · exact exec_bra _ s
    · rw [exec_brz, if_pos hz]
    · rw [exec_brp, if_neg (Bool.eq_false_iff.mp hn)]
  | notTaken hi =>
    obtain ⟨rfl, hz⟩ | ⟨rfl, hn⟩ := hi
    · rw [exec_brz, if_neg hz]
    · rw [exec_brp, if_pos hn]
  | inp hx => exact exec_inp_offer hx
  | out ho => exact exec_out_ready ho

/-- The effect of an instruction other than INP and OUT neither reads nor writes the ports (R216). -/
theorem ExecEffect.withPorts (hi : i.isIo = false) (h : ExecEffect s i t) (d : InputDevice) (o : OutputDevice)
    (l : List PortEvent) : ExecEffect (s.withPorts d o l) i (t.withPorts d o l) := by
  cases h with
  | halt x => exact .halt x
  | illegal hill => exact .illegal hill
  | add ha => exact .add ha
  | sub ha => exact .sub ha
  | sta ha => exact .sta ha
  | lda ha => exact .lda ha
  | taken hbr => exact .taken hbr
  | notTaken hbr => exact .notTaken hbr
  | inp => cases hi
  | out => cases hi

end

/-- Settles O29: with other ports the instruction has the same effect on the rest of the state. -/
theorem onlyIoDependsOnDevices : Obligations.OnlyIoDependsOnDevices := fun _ _ _ hi h d o l =>
  exec_of_execEffect ((execEffect_of_exec h).withPorts hi d o l)

/-- Given the devices it has already, an instruction other than INP and OUT hands them on: it keeps them (R216). -/
theorem exec_portsKept {i : Instr} {s t : State} (hi : i.isIo = false) (h : exec i s = .next t) : s.PortsKept t := by
  have hsame : exec i s = .next (t.withPorts s.input s.output s.portLog) :=
    onlyIoDependsOnDevices i s t hi h s.input s.output s.portLog
  have ht : t = t.withPorts s.input s.output s.portLog := Host.Outcome.next.inj (h.symm.trans hsame)
  rw [ht]
  exact ⟨rfl, rfl, rfl⟩

/-- Settles O18: after the transfer INP writes ACC and advances, and keeps what the transfer left. -/
theorem inpCompletesWithInputValue : Obligations.InpCompletesWithInputValue := by
  intro s x hs hx
  obtain ⟨hpc, hmem, ⟨hin, hout, hlog⟩, hgo⟩ := finishStep_advance_frame (s := transferIn x s)
    (u := writeAcc (norm x) (transferIn x s)) hs rfl rfl ⟨rfl, rfl, rfl⟩ rfl rfl rfl
  exact ⟨_, exec_inp_offer hx, norm_toNat x, hpc, rfl, hmem, hin, hout, hlog, hgo⟩

theorem OutputDevice.snapshot_write (v : Word) (o : OutputDevice) : (o.write v).snapshot = o.snapshot ++ [v] := by
  cases o <;> rfl

/-- Settles O19: after the transfer OUT advances only. -/
theorem outCompletesWithTransfer : Obligations.OutCompletesWithTransfer := by
  intro s hs ho
  obtain ⟨hpc, hmem, ⟨hin, hout, hlog⟩, hgo⟩ := finishStep_advance_frame (s := transferOut s.acc s)
    (u := transferOut s.acc s) hs rfl rfl ⟨rfl, rfl, rfl⟩ rfl rfl rfl
  exact ⟨_, exec_out_ready ho, hout, s.output.snapshot_write s.acc, hlog, hin, hpc, rfl, rfl, hmem, hgo⟩

end Sys2Proof.Machine
end

section
/-! The port events of a clock edge (R211, R214, R216, R217). -/

namespace Sys2Proof.Machine

/-- No transfer is due at the next edge: no wait phase with its device acting (R211, R214). -/
abbrev State.NoTransferDue (s : State) : Prop :=
  ¬ (s.phase = .waitIn ∧ s.input.offer ≠ none) ∧ ¬ (s.phase = .waitOut ∧ s.output.ready = true)

section
variable {p : HostPins} {s t : State}

theorem noTransferDue_of_phase (h : s.phase = .idle ∨ s.phase = .fetch ∨ s.phase = .exec) : s.NoTransferDue := by
  obtain hp | hp | hp := h <;> simp [State.NoTransferDue, hp]

theorem State.Fetches.noTransferDue (h : s.Fetches) : s.NoTransferDue := by
  obtain hp | ⟨hp, -⟩ := h
  · exact noTransferDue_of_phase (.inr (.inl hp))
  · exact noTransferDue_of_phase (.inl hp)

/-- No host command reaches the devices (R42, R216). -/
theorem CommandEffect.portsKept {c : HostCommand} (h : CommandEffect s c t) : s.PortsKept t := by
  cases h <;> exact ⟨rfl, rfl, rfl⟩

theorem beginNextStep_portsKept (h : s.PortsKept t) : s.PortsKept (beginNextStep t) := by
  obtain ⟨hin, hout, hlog⟩ := h
  exact ⟨(beginNextStep_input t).trans hin, (beginNextStep_output t).trans hout,
    (beginNextStep_portLog t).trans hlog⟩

/-- An edge without `rst` makes the transfer of INP or OUT that is due, or none is due and it keeps the ports. -/
theorem SequencerEdge.port_cases (h : SequencerEdge p s t) :
    (s.phase = .waitIn ∧ ∃ x, s.input.offer = some x ∧ t.portLog = s.portLog ++ [.input x] ∧
      t.input = s.input.consume ∧ t.output = s.output) ∨
    (s.phase = .waitOut ∧ s.output.ready = true ∧ t.portLog = s.portLog ++ [.output s.acc] ∧
      t.output = s.output.write s.acc ∧ t.input = s.input) ∨
    (s.NoTransferDue ∧ s.PortsKept t) := by
  cases h with
  | latch hs => exact .inr (.inr ⟨hs.noTransferDue, rfl, rfl, rfl⟩)
  | fetchRange hs => exact .inr (.inr ⟨hs.noTransferDue, rfl, rfl, rfl⟩)
  | command ha _ hc =>
    obtain ⟨hp, -⟩ := acceptsCommand_iff.mp ha
    exact .inr (.inr ⟨noTransferDue_of_phase (.inl hp), hc.portsKept⟩)
  | keep hs =>
    refine .inr (.inr ⟨?_, rfl, rfl, rfl⟩)
    obtain ⟨hp, -⟩ | ⟨hp, ho⟩ | ⟨hp, ho⟩ := hs
    · exact noTransferDue_of_phase (.inl hp)
    · exact ⟨fun h => h.2 ho, by simp [hp]⟩
    · exact ⟨by simp [hp], by simp [ho]⟩
  | waitIn hp => exact .inr (.inr ⟨noTransferDue_of_phase (.inr (.inr hp)), rfl, rfl, rfl⟩)
  | waitOut hp => exact .inr (.inr ⟨noTransferDue_of_phase (.inr (.inr hp)), rfl, rfl, rfl⟩)
  | commit hp _ hi hu =>
    have hkept := exec_portsKept hi hu
    exact .inr (.inr ⟨noTransferDue_of_phase (.inr (.inr hp)), beginNextStep_portsKept hkept⟩)
  | undecodable hp => exact .inr (.inr ⟨noTransferDue_of_phase (.inr (.inr hp)), rfl, rfl, rfl⟩)
  | commitInp hp ho hu =>
    obtain ⟨x, hx⟩ := Option.isSome_iff_exists.mp ho
    rw [exec_inp_offer hx] at hu
    cases hu
    exact .inl ⟨hp, x, hx, by simp, by simp, by simp⟩
  | commitOut hp ho hu =>
    rw [exec_out_ready ho] at hu
    cases hu
    exact .inr (.inl ⟨hp, ho, by simp, by simp, by simp⟩)

end

/-- Settles O59: `rst` resets the devices, and any other edge makes the transfer that is due or none. -/
theorem portEventsOnlyFromIoAndReset : Obligations.PortEventsOnlyFromIoAndReset := by
  intro p s t h
  obtain ⟨hr, rfl⟩ | ⟨hr, h⟩ := clockEdge_cases h
  · exact .inl ⟨hr, rfl⟩
  obtain hin | hout | ⟨⟨hin, hout⟩, hkept⟩ := h.port_cases
  · exact .inr (.inl ⟨hr, hin⟩)
  · exact .inr (.inr (.inl ⟨hr, hout⟩))
  · exact .inr (.inr (.inr ⟨hr, hin, hout, hkept⟩))

end Sys2Proof.Machine
end

section
/-! The chained input: its values, then its fallback's, and its reset (R219, R220). -/

namespace Sys2Proof.Machine

namespace InputDevice

section
variable {values rest : List Word} {cursor : Nat} {fallback d : InputDevice} {c v : Word}

theorem reads_succ_of_offer (h : d.offer = some v) (k : Nat) : d.reads (k + 1) = v :: d.consume.reads k := by
  simp only [reads, h]

theorem reads_of_no_offer (h : d.offer = none) (k : Nat) : d.reads k = [] := by
  cases k with
  | zero => rfl
  | succ k => simp only [reads, h]

theorem offer_chained_of_value (h : values[cursor]? = some v) : (chained values cursor fallback).offer = some v := by
  simp only [offer, h]

theorem offer_chained_of_end (h : values[cursor]? = none) :
    (chained values cursor fallback).offer = fallback.offer := by
  simp only [offer, h]

theorem consume_chained_of_value (h : values[cursor]? = some v) :
    (chained values cursor fallback).consume = .chained values (cursor + 1) fallback := by
  simp only [consume, h]

theorem consume_chained_of_end (h : values[cursor]? = none) :
    (chained values cursor fallback).consume = .chained values cursor fallback.consume := by
  simp only [consume, h]

/-- Past its values the chained input reads as its fallback, and its own cursor stays (R220). -/
theorem reads_chained_of_end (h : values[cursor]? = none) (k : Nat) :
    (chained values cursor fallback).reads k = fallback.reads k := by
  induction k generalizing fallback with
  | zero => rfl
  | succ k ih =>
    have hoffer := offer_chained_of_end (fallback := fallback) h
    cases ho : fallback.offer with
    | none => rw [reads_of_no_offer ho, reads_of_no_offer (hoffer.trans ho)]
    | some v => rw [reads_succ_of_offer ho, reads_succ_of_offer (hoffer.trans ho), consume_chained_of_end h, ih]

/-- From its cursor on the chained input gives the values that are left, then its fallback's reads (R220). -/
theorem reads_chained (h : values.drop cursor = rest) (k : Nat) :
    (chained values cursor fallback).reads (rest.length + k) = rest ++ fallback.reads k := by
  induction rest generalizing cursor with
  | nil =>
    have hend : values[cursor]? = none := by rw [← List.head?_drop, h, List.head?_nil]
    rw [List.length_nil, Nat.zero_add, reads_chained_of_end hend, List.nil_append]
  | cons v rest ih =>
    have hv : values[cursor]? = some v := by rw [← List.head?_drop, h, List.head?_cons]
    have hrest : values.drop (cursor + 1) = rest := by rw [← List.tail_drop, h, List.tail_cons]
    rw [List.length_cons, Nat.succ_add, reads_succ_of_offer (offer_chained_of_value hv), consume_chained_of_value hv,
      ih hrest, List.cons_append]

/-- Reading a chained input with a constant fallback moves its cursor alone. -/
theorem exists_consume_chained_constant (values : List Word) (cursor : Nat) (c : Word) :
    ∃ cursor', (chained values cursor (.constant c)).consume = .chained values cursor' (.constant c) := by
  cases hv : values[cursor]? with
  | some v => exact ⟨cursor + 1, consume_chained_of_value hv⟩
  | none => exact ⟨cursor, consume_chained_of_end hv⟩

theorem exists_iterate_consume_chained_constant (values : List Word) (cursor : Nat) (c : Word) (n : Nat) :
    ∃ cursor', consume^[n] (.chained values cursor (.constant c)) = .chained values cursor' (.constant c) := by
  induction n with
  | zero => exact ⟨cursor, rfl⟩
  | succ n ih =>
    obtain ⟨m, hm⟩ := ih
    rw [Function.iterate_succ_apply', hm]
    exact exists_consume_chained_constant values m c

theorem reads_constant (c : Word) (k : Nat) : (constant c).reads k = List.replicate k c := by
  induction k with
  | zero => rfl
  | succ k ih => rw [reads_succ_of_offer (d := constant c) rfl, consume, ih, List.replicate_succ]

end
end InputDevice

/-- Settles O60: the reads from cursor 0, the reset of a moved cursor, and the constant input. -/
theorem chainedInputReadsThenFallsBack : Obligations.ChainedInputReadsThenFallsBack := by
  refine ⟨fun values fallback k => InputDevice.reads_chained List.drop_zero k, fun values c n => ?_,
    InputDevice.reads_constant⟩
  obtain ⟨cursor, hcursor⟩ := InputDevice.exists_iterate_consume_chained_constant values 0 c n
  rw [hcursor, InputDevice.reset, InputDevice.reset]

end Sys2Proof.Machine
end

section
/-! A fault writes HALTED and its cause, and for an illegal word the advanced PC; a step stops only at a wait, and a
clock edge at nothing (R240, R242, R246, R281, R134). -/

namespace Sys2Proof.Machine

section
variable {i : Instr} {s t : State}

/-- An instruction halts by HALT, whose cause is no fault, or by an illegal row (R126, R127, U16). -/
theorem eq_takeIllegal_of_exec (hh : s.halted = false) (h : exec i s = .next t) (hf : t.EndedInFault) :
    t = takeIllegal s := by
  obtain hkeep | ⟨-, ⟨-, hc⟩ | ⟨hi, -⟩⟩ := exec_halted h
  · exact absurd (hkeep.symm.trans hf.1) (by simp [hh])
  · exact absurd hf.2 (by simp [hc])
  · exact Host.Outcome.next.inj (h.symm.trans (exec_illegal hi s))

theorem eq_takeIllegal_of_executeLatched (hh : s.halted = false) (h : executeLatched s = .next t)
    (hf : t.EndedInFault) : t = takeIllegal s := by
  obtain ⟨i, -, hi⟩ | ⟨-, ht⟩ := executeLatched_cases h
  · exact eq_takeIllegal_of_exec hh hi hf
  · exact ht

/-- A faulting step is one of the two fault entries, from the state as it stands but for PHASE and IR (R121, R240). -/
theorem fault_cases_of_step (hh : s.halted = false) (h : step s = .next t) (hf : t.EndedInFault) :
    t = takeFetchRange s ∨ ∃ w ph, t = takeIllegal { s with ir := w, phase := ph } := by
  obtain ⟨ht, -⟩ | ⟨-, h⟩ | ⟨-, -, h⟩ | ⟨-, -, h⟩ | ⟨-, -, h⟩ := step_cases h
  · exact absurd (ht.symm.trans hh) (by decide)
  · obtain ⟨-, h⟩ | ⟨-, ht⟩ := fetchAndExecute_cases h
    · exact .inr ⟨_, _, eq_takeIllegal_of_executeLatched (s := latch s) hh h hf⟩
    · exact .inl ht
  · exact .inr ⟨_, _, eq_takeIllegal_of_executeLatched hh h hf⟩
  · exact .inr ⟨_, _, eq_takeIllegal_of_exec hh h hf⟩
  · exact .inr ⟨_, _, eq_takeIllegal_of_exec hh h hf⟩

end

/-- Settles O33, by the two fault entries: each changes what it says and brings its own cause. -/
theorem faultsArePrecise : Obligations.FaultsArePrecise := by
  intro s t hh h hf
  obtain rfl | ⟨w, ph, rfl⟩ := fault_cases_of_step hh h hf
  · obtain ⟨hmem, hports⟩ := takeHalt_keeps .fetchRange s
    exact ⟨rfl, rfl, hmem, hports, fun hc => by simp at hc, fun _ => rfl⟩
  · obtain ⟨-, hpc, hacc, hneg, hmem, hports⟩ := takeHalt_advance_frame .illegal { s with ir := w, phase := ph }
    exact ⟨hacc, hneg, hmem, hports, fun _ => hpc, fun hc => by simp at hc⟩

section
variable {p : HostPins} {s : State}

/-- The two waits are all that stops a step: every other step is enabled (R281, log 6). -/
theorem awaits_of_step_fault {f : Fault} (h : step s = .fault f) :
    (s.AwaitsInput ∧ f = .awaitsInput) ∨ (s.AwaitsOutput ∧ f = .awaitsOutput) := by
  by_cases hin : s.AwaitsInput
  · exact .inl ⟨hin, Host.Outcome.fault.inj (h.symm.trans (step_of_awaitsInput hin))⟩
  by_cases hout : s.AwaitsOutput
  · exact .inr ⟨hout, Host.Outcome.fault.inj (h.symm.trans (step_of_awaitsOutput hout))⟩
  obtain ⟨t, ht⟩ := step_next_of_enabled hin hout
  cases h.symm.trans ht

/-- An edge that commits answers a state when what it commits does. -/
theorem commitEdge_next_of_next {o : Host.Outcome State Fault Refusal} (h : ∃ t, o = .next t) :
    ∃ t, commitEdge o = .next t := by
  obtain ⟨t, rfl⟩ := h
  exact ⟨beginNextStep t, rfl⟩

theorem fetchEdge_next (s : State) : ∃ t, fetchEdge s = .next t := ⟨_, rfl⟩

theorem idleEdge_next (p : HostPins) (s : State) : ∃ t, idleEdge p s = .next t := by
  cases hc : p.command with
  | none => exact ⟨s, by simp only [idleEdge, hc]⟩
  | some c => exact ⟨hostCommand c s, by simp only [idleEdge, hc]⟩

/-- What decodes to neither INP nor OUT waits for no device, and its operand is a cell's address (R90, R240). -/
theorem executeLatched_next_of_no_io (h : ∀ i, decode s.ir = .ok i → i.isIo = false) :
    ∃ t, executeLatched s = .next t := by
  obtain hn | ⟨i, hd⟩ := executeLatched_next_or_decode s
  · exact hn
  have hio := h i hd
  rw [executeLatched_of_decode hd]
  refine exec_next_of_enabled (decode_ok hd).1 ?_ ?_
  · rintro ⟨rfl, -⟩
    cases hio
  · rintro ⟨rfl, -⟩
    cases hio

/-- EXEC hands INP and OUT to their wait phase and commits the rest (R134). -/
theorem execEdge_next (s : State) : ∃ t, execEdge s = .next t := by
  by_cases h : ∀ i, decode s.ir = .ok i → i.isIo = false
  · rw [execEdge_of_no_io h]
    exact commitEdge_next_of_next (executeLatched_next_of_no_io h)
  · obtain ⟨i, hd, hi⟩ : ∃ i, decode s.ir = .ok i ∧ i.isIo = true := by simpa using h
    exact ⟨_, execEdge_of_io hd hi⟩

theorem waitInEdge_next (s : State) : ∃ t, waitInEdge s = .next t := by
  cases ho : s.input.offer with
  | none => exact ⟨s, by simp [waitInEdge, ho]⟩
  | some x =>
    have hedge : waitInEdge s = commitEdge (exec .inp s) := by simp [waitInEdge, ho]
    rw [hedge]
    exact commitEdge_next_of_next ⟨_, exec_inp_offer ho⟩

theorem waitOutEdge_next (s : State) : ∃ t, waitOutEdge s = .next t := by
  cases ho : s.output.ready with
  | false => exact ⟨s, by simp [waitOutEdge, ho]⟩
  | true =>
    have hedge : waitOutEdge s = commitEdge (exec .out s) := by simp [waitOutEdge, ho]
    rw [hedge]
    exact commitEdge_next_of_next ⟨_, exec_out_ready ho⟩

/-- In IDLE the edge fetches under RUN and looks at the command otherwise (R132, R134, log 7). -/
theorem clockEdge_next_of_idle (hr : p.rst = false) (hp : s.phase = .idle) : ∃ t, clockEdge p s = .next t := by
  cases hg : s.run && !s.halted with
  | true =>
    obtain ⟨hrun, hh⟩ : s.run = true ∧ s.halted = false := by simpa using hg
    rw [clockEdge_of_idle_run hr hh hp hrun]
    exact fetchEdge_next s
  | false =>
    have hedge : clockEdge p s = idleEdge p s := by simp only [clockEdge, hr, hp, hg, Bool.false_eq_true, if_false]
    rw [hedge]
    exact idleEdge_next p s

end

/-- Settles O34: the waits stop a step, nothing else does, and every other step is enabled. -/
theorem everyEnabledStepAnswersNext : Obligations.EveryEnabledStepAnswersNext := by
  refine fun s => ⟨⟨fun h => ?_, step_of_awaitsInput⟩, ⟨fun h => ?_, step_of_awaitsOutput⟩, step_next_of_enabled⟩
  · obtain ⟨hin, -⟩ | ⟨-, hf⟩ := awaits_of_step_fault h
    · exact hin
    · cases hf
  · obtain ⟨-, hf⟩ | ⟨hout, -⟩ := awaits_of_step_fault h
    · cases hf
    · exact hout

/-- Settles O44, by `rst` and then by PHASE: each row of the sequencer answers a state. -/
theorem everyClockEdgeAnswersNext : Obligations.EveryClockEdgeAnswersNext := by
  intro p s
  cases hr : p.rst with
  | true => exact ⟨_, clockEdge_of_rst hr⟩
  | false =>
    cases hp : s.phase with
    | idle => exact clockEdge_next_of_idle hr hp
    | fetch => exact clockEdge_of_fetch hr hp ▸ fetchEdge_next s
    | exec => exact clockEdge_of_exec hr hp ▸ execEdge_next s
    | waitIn => exact clockEdge_of_waitIn hr hp ▸ waitInEdge_next s
    | waitOut => exact clockEdge_of_waitOut hr hp ▸ waitOutEdge_next s

end Sys2Proof.Machine
end

section
/-! The program load: one accepted host write per cell, in order (R277). -/

namespace Sys2Proof.Machine

section
variable {s : State} {i : Nat}

/-- An accepted host write of memory is the store into that cell: seven bits hold every cell's address (R42). -/
theorem hostCommand_write_cell (ha : acceptsCommand s = true) (hi : i < 100) (v : Word) :
    hostCommand (.write .mem (BitVec.ofNat 7 i) v) s = writeCell i v s := by
  have haddr : (BitVec.ofNat 7 i).toNat = i := by
    rw [BitVec.toNat_ofNat]
    exact Nat.mod_eq_of_lt (by omega)
  have hwrite := hostWriteMem_of_lt (addr := BitVec.ofNat 7 i) (haddr.symm ▸ hi) v s
  rw [haddr] at hwrite
  exact (if_pos ha).trans hwrite

/-- A program load stores its first value and loads the rest from the next cell on (R277). -/
theorem loadProgramFrom_cons (ha : acceptsCommand s = true) (hi : i < 100) (v : Word) (vs : List Word) :
    loadProgramFrom i (v :: vs) s = loadProgramFrom (i + 1) vs (writeCell i v s) := by
  rw [loadProgramFrom, hostCommand_write_cell ha hi]

/-- A program load changes memory only (R277). -/
theorem loadProgramFrom_frame (vs : List Word) (ha : acceptsCommand s = true) (hle : i + vs.length ≤ 100) :
    loadProgramFrom i vs s = { s with mem := (loadProgramFrom i vs s).mem } := by
  induction vs generalizing i s with
  | nil => rfl
  | cons v vs ih =>
    rw [List.length_cons] at hle
    rw [loadProgramFrom_cons ha (by omega)]
    exact ih (s := writeCell i v s) ha (by omega)

/-- A program load leaves the cells before and after those it fills (R277). -/
theorem read_loadProgramFrom_outside (vs : List Word) (ha : acceptsCommand s = true) (hle : i + vs.length ≤ 100)
    {b : Nat} (hb : b < i ∨ i + vs.length ≤ b) :
    Memory.read (loadProgramFrom i vs s).mem b = Memory.read s.mem b := by
  induction vs generalizing i s with
  | nil => rfl
  | cons v vs ih =>
    rw [List.length_cons] at hle hb
    rw [loadProgramFrom_cons ha (by omega), ih (s := writeCell i v s) ha (by omega) (by omega)]
    exact Memory.read_write_other s.mem v (by omega)

/-- Each value of the program stands normalized in its cell: no later write of the load is of that cell (R277). -/
theorem read_loadProgramFrom (vs : List Word) (hm : Memory.wf s.mem = true) (ha : acceptsCommand s = true)
    (hle : i + vs.length ≤ 100) {j : Nat} (hj : j < vs.length) :
    Memory.read (loadProgramFrom i vs s).mem (i + j) = norm vs[j] := by
  induction vs generalizing i j s with
  | nil => exact absurd hj (Nat.not_lt_zero j)
  | cons v vs ih =>
    rw [List.length_cons] at hle hj
    rw [loadProgramFrom_cons ha (by omega)]
    cases j with
    | zero =>
      rw [read_loadProgramFrom_outside (s := writeCell i v s) vs ha (by omega) (by omega)]
      exact (Memory.read_write hm i i v).trans (if_pos rfl)
    | succ j =>
      have hrest := ih (i := i + 1) (s := writeCell i v s) (Memory.wf_write hm (by omega) v) ha (by omega)
        (Nat.lt_of_succ_lt_succ hj)
      rwa [Nat.add_right_comm] at hrest

end

/-- Settles O54: the values fill the cells from 0 on, and the load leaves the cells after them and all but memory. -/
theorem programLoadFillsFirstCells : Obligations.ProgramLoadFillsFirstCells := by
  intro vs s hm ha hlen
  have hle : 0 + vs.length ≤ 100 := by omega
  refine ⟨fun i hi => ?_, fun i hi => ?_, loadProgramFrom_frame vs ha hle⟩
  · have hread := read_loadProgramFrom vs hm ha hle hi
    rwa [Nat.zero_add] at hread
  · exact read_loadProgramFrom_outside vs ha hle (.inr (by omega))

end Sys2Proof.Machine
end

section
/-! The waits of INP and OUT (R134, R281). -/

namespace Sys2Proof.Machine

section
variable {p : HostPins} {s : State}

/-- WAIT_IN is kept while the device offers nothing (R134, R211). -/
theorem clockEdge_of_waitIn_awaits (hr : p.rst = false) (hp : s.phase = .waitIn) (ho : s.input.offer = none) :
    clockEdge p s = .next s := by
  rw [clockEdge_of_waitIn hr hp]
  simp [waitInEdge, ho]

/-- WAIT_OUT is kept while the device is not ready (R134, R214). -/
theorem clockEdge_of_waitOut_awaits (hr : p.rst = false) (hp : s.phase = .waitOut) (ho : s.output.ready = false) :
    clockEdge p s = .next s := by
  rw [clockEdge_of_waitOut hr hp]
  simp [waitOutEdge, ho]

/-- From EXEC the edge takes INP and OUT to their wait phase (R134). -/
theorem clockEdge_of_exec_io {i : Instr} (hr : p.rst = false) (hp : s.phase = .exec) (hd : decode s.ir = .ok i)
    (hi : i.isIo = true) : clockEdge p s = .next (waitAt (waitPhase i) s) :=
  (clockEdge_of_exec hr hp).trans (execEdge_of_io hd hi)

end

/-- Settles O20: INP stops for want of a value and transfers any that is offered, and the edges come to WAIT_IN and
stay. -/
theorem inpWaitsWithoutInput : Obligations.InpWaitsWithoutInput := fun _ ho =>
  ⟨exec_inp_awaits ho, fun _ _ hx => ⟨_, exec_inp_offer hx⟩, fun _ hr hp hd => clockEdge_of_exec_io hr hp hd rfl,
    fun _ hp => ⟨decide_eq_true hp, fun hr => clockEdge_of_waitIn_awaits hr hp ho⟩⟩

/-- Settles O21: OUT stops at a device that is not ready and transfers to any that is, and the edges come to WAIT_OUT
and stay. -/
theorem outWaitsWithoutReady : Obligations.OutWaitsWithoutReady := fun _ ho =>
  ⟨exec_out_awaits ho, fun _ hd => ⟨_, exec_out_ready hd⟩, fun _ hr hp hd => clockEdge_of_exec_io hr hp hd rfl,
    fun _ hp => ⟨decide_eq_true hp, if_pos hp, fun hr => clockEdge_of_waitOut_awaits hr hp ho⟩⟩

end Sys2Proof.Machine
end

section
/-! Power-on, machine reset and memory clear (R270 to R275). -/

namespace Sys2Proof.Machine

/-- The power-on registers are cell values, and an engine that is not halted in IDLE has nothing else to meet (R273). -/
theorem powerOn_inv {m : Memory} (hm : Memory.wf m = true) (i : InputDevice) (o : OutputDevice) :
    (State.powerOn m i o).Inv where
  inRange := ⟨hm, show (0#10).toNat < 1000 by decide, show (0#10).toNat < 1000 by decide⟩
  haltConsistent := ⟨by simp [State.powerOn], by simp [State.powerOn]⟩
  phaseConsistent := trivial

/-- Settles O39: the reset state is a power-on state, with an empty memory. -/
theorem powerOnMeetsInvariant : Obligations.PowerOnMeetsInvariant :=
  ⟨fun _ i o hm => powerOn_inv hm i o, powerOn_inv reset_mem_wf (.unspecified 0) (.buffered [])⟩

/-- Settles O46: with `rst` the edge is the machine reset, in every phase. -/
theorem machineResetFromEveryState : Obligations.MachineResetFromEveryState := fun _ s hr =>
  ⟨machineReset s, clockEdge_of_rst hr, rfl, rfl, rfl, rfl, rfl, rfl, rfl, machineReset_keeps_memory s, rfl, rfl, rfl, hr⟩

/-- Settles O47: each register is the one `State.powerOn` states, and address 0 is fetchable. -/
theorem powerOnRegisters : Obligations.PowerOnRegisters := by
  intro m i o s
  have hf : fetchable s = true := decide_eq_true (show (0#10).toNat < 100 by decide)
  exact ⟨rfl, rfl, rfl, rfl, rfl, rfl, rfl, rfl, rfl, rfl, rfl, rfl, hf⟩

/-- Settles O48: `mem_clr` is the command, and it leaves no cell listed. -/
theorem memoryClearZeroesEveryCell : Obligations.MemoryClearZeroesEveryCell := by
  intro p s hr hclr ha
  have hc : p.command = some .memClear := if_pos hclr
  exact ⟨memClear s, clockEdge_of_command hr ha hc, fun a _ => Memory.read_nil a, rfl⟩

end Sys2Proof.Machine
end
